-- ==== Sys2Proof/Word.lean ====
section
/-! DEFINITION. The word types of the block: a byte as it travels on the wires and the quantities built from bytes. Line
levels, the memory bank bit and the output signals are `Bool`, `true` standing for level 1 (00_scope.md R13). -/

namespace Sys2Proof

/-- A byte of the two-wire bus, of the compressed stream or of a command (30_encoding.md R102). -/
abbrev Byte := BitVec 8

/-- A 16-bit quantity: program address, register value, word count, base address (00_scope.md R12). -/
abbrev Half := BitVec 16

/-- A 20-bit memory word (20_memory.md R72). -/
abbrev MemWord := BitVec 20

/-- A 32-bit quantity: the decoded-frame counter and the read payload (10_state.md R36, R43). -/
abbrev Quad := BitVec 32

end Sys2Proof
end

