-- ==== Sys2Proof/Config.lean ====
section
/-! DEFINITION. What an implementation of the block fixes: the parameters of 00_scope.md R11 as one record of plain data, and
the three external functions (frame finder, decoder, sample conversion) as free values. -/

namespace Sys2Proof.Config

/-- A location of the memory banks: a bank and a 16-bit address (20_memory.md R72). -/
structure MemLoc where
  bank : Bool
  addr : Half
deriving DecidableEq, Repr

/-- The parameter `SDA_RELEASE` of 40_bus_protocol.md R160. -/
inductive SdaRelease where
  /-- the normative setting: only bit cells and reset write `SDA_OUT` -/
  | literal
  /-- the offered variant: entering `Nak` or `Idle` also releases the data line -/
  | onNakIdle
deriving DecidableEq, Repr

/-- The parameters of 00_scope.md R11 that are plain data. `READ_ADDR_BYTE` is not among them: it is decided to be
`2*DEV_ADDR7 + 1`, see `Params.readAddrByte`. -/
structure Params where
  /-- `DEV_ADDR7` -/
  devAddr : BitVec 7
  /-- `SEL_DATA_WRITE` -/
  selDataWrite : Byte
  /-- `SEL_DATA_READ` -/
  selDataRead : Byte
  /-- `SEL_CONTROL` -/
  selControl : Byte
  /-- `REG_MUTE` -/
  regMute : BitVec 8
  /-- `MEM_GAIN_LL` -/
  memGainLL : MemLoc
  /-- `MEM_GAIN_LR` -/
  memGainLR : MemLoc
  /-- `MEM_GAIN_RL` -/
  memGainRL : MemLoc
  /-- `MEM_GAIN_RR` -/
  memGainRR : MemLoc
  /-- `RING_CAP`, bytes -/
  ringCap : Nat
  /-- `SAMPLE_CAP`, stereo pairs -/
  sampleCap : Nat
  /-- `RATE_RESET`, hertz -/
  rateReset : Nat
  /-- `SDA_RELEASE` -/
  sdaRelease : SdaRelease
deriving DecidableEq, Repr

/-- `READ_ADDR_BYTE = 2*DEV_ADDR7 + 1` (00_scope.md R11). -/
def Params.readAddrByte (c : Params) : Byte := c.devAddr ++ 1#1

/-- The write address byte `AW = DEV_ADDR7 ‖ 0` (30_encoding.md R131). -/
def Params.writeAddrByte (c : Params) : Byte := c.devAddr ++ 0#1

/-- The conditions 00_scope.md R11 puts on the parameters: selectors pairwise distinct, gain locations pairwise distinct,
capacities at least 1. -/
def Params.ok (c : Params) : Bool :=
  decide (c.selDataWrite ≠ c.selDataRead ∧ c.selDataWrite ≠ c.selControl ∧ c.selDataRead ≠ c.selControl) &&
  decide (c.memGainLL ≠ c.memGainLR ∧ c.memGainLL ≠ c.memGainRL ∧ c.memGainLL ≠ c.memGainRR ∧
    c.memGainLR ≠ c.memGainRL ∧ c.memGainLR ≠ c.memGainRR ∧ c.memGainRL ≠ c.memGainRR) &&
  decide (1 ≤ c.ringCap ∧ 1 ≤ c.sampleCap)

/-- PRESUMED: profile P0, the column "P0 value" of 00_scope.md R11, general knowledge by the spec's own words. Only
`State.reset` and the table-word reader use it; no rule depends on it. Unsafe: a claim about `State.reset` could lean on these
numbers (assumption entry 1). -/
def referenceProfile : Params where
  devAddr := 0x1D#7
  selDataWrite := 0x68#8
  selDataRead := 0x69#8
  selControl := 0x6A#8
  regMute := 0xAA#8
  memGainLL := ⟨true, 0x07F8#16⟩
  memGainLR := ⟨true, 0x07F9#16⟩
  memGainRL := ⟨true, 0x07FA#16⟩
  memGainRR := ⟨true, 0x07FB#16⟩
  ringCap := 3584
  sampleCap := 1152
  rateReset := 44100
  sdaRelease := .literal

/-- A decoded stereo pair: two signed 16-bit samples as their bits (10_state.md R47). The block does no arithmetic on them. -/
structure Stereo where
  left : BitVec 16
  right : BitVec 16
deriving DecidableEq, Repr, Inhabited

/-- DESIGN CHOICE: the output format, a parameter type of 43_decode_pipeline.md R277, is any integer (assumption entry 3). -/
abbrev OutSample := Int

/-- A stereo pair of the block that `Produce` returns. -/
structure OutPair where
  left : OutSample
  right : OutSample
deriving DecidableEq, Repr

/-- The silence pair `(0, 0)` of 43_decode_pipeline.md R276. -/
def silence : OutPair := ⟨0, 0⟩

/-- One answer of the decoder: samples, consumed bytes, sample rate; no samples means failure (43_decode_pipeline.md R262). -/
structure Decoded where
  samples : List Stereo
  consumed : Nat
  rate : Nat
deriving DecidableEq, Repr

/-- The three function parameters of 00_scope.md R11. `decode` also takes the number of the call, since the real decoder may
keep internal state between calls (43_decode_pipeline.md R262). -/
structure Oracles where
  findFrame : List Byte → Nat × Nat
  decode : Nat → List Byte → Decoded
  conv : BitVec 16 → OutSample

/-- What the spec assumes of the oracles: 43_decode_pipeline.md R263 for `Decode` (with `cap` for `SAMPLE_CAP`), R277 for
`Conv`; of `FindFrame` nothing. -/
def Oracles.Meets (o : Oracles) (cap : Nat) : Prop :=
  (∀ call bytes, (o.decode call bytes).samples ≠ [] →
    (o.decode call bytes).samples.length ≤ cap ∧ (o.decode call bytes).consumed ≤ bytes.length) ∧
  o.conv 0#16 = 0

/-- Free value: where the frame finder sees a frame, `(offset, size)`. -/
opaque frameFound : List Byte → Nat × Nat

/-- Free value: how many stereo pairs a decoder call gives, at most `cap` (R263 carried by the type, as U2 asks). -/
opaque decodedCount : Nat → List Byte → (cap : Nat) → Fin (cap + 1)

/-- Free value: the pairs a decoder call gives. -/
opaque decodedSample : Nat → List Byte → Nat → Stereo

/-- Free value: how many bytes a decoder call consumes, at most those it was given (R263 carried by the type, as U1 asks). -/
opaque decodedConsumed : Nat → (bytes : List Byte) → Fin (bytes.length + 1)

/-- Free value: the rate a decoder call reports (U9: any value). -/
opaque decodedRate : Nat → List Byte → Nat

/-- Free value: `Conv` on nonzero samples. -/
opaque convNonzero : BitVec 16 → OutSample

/-- The decoder of the block with a sample buffer of `cap` pairs: any answers within R263. -/
def freeDecode (cap : Nat) (call : Nat) (bytes : List Byte) : Decoded where
  samples := (List.range (decodedCount call bytes cap).val).map (decodedSample call bytes)
  consumed := (decodedConsumed call bytes).val
  rate := decodedRate call bytes

/-- `Conv`: 0 at 0 (R277), free elsewhere. -/
def freeConv (x : BitVec 16) : OutSample := if x = 0#16 then 0 else convNonzero x

/-- The oracles of the block: free values within the spec's preconditions (assumption entry 2). -/
def oracles (cap : Nat) : Oracles where
  findFrame := frameFound
  decode := freeDecode cap
  conv := freeConv

end Sys2Proof.Config
end

