-- ==== Sys2Proof/Syntax.lean ====
section
/-! DEFINITION. The operations of the block, one constructor per row of spec/opcode_table.json, and what the outside world
presents to it. Ignored bit fields are operands (named `x` or `pad`), so that no bit of an encoding is dropped. -/

namespace Sys2Proof

/-- A memory word on the wire: 20 bits and the ignored high nibble of its third byte (30_encoding.md R111). -/
structure WireWord where
  w : MemWord
  pad : BitVec 4
deriving DecidableEq, Repr

/-- The operations of spec/opcode_table.json. -/
inductive Instr where
  /-- SetClock (R142) -/
  | setClock (l : Bool)
  /-- SetData (R143) -/
  | setData (l : Bool)
  /-- ReadClock (R144) -/
  | readClock
  /-- ReadData (R145) -/
  | readData
  /-- FeedByte (R264) -/
  | feedByte (b : Byte)
  /-- Produce (R275): `n` stereo pairs are wanted -/
  | produce (n : Nat)
  /-- Reset (R340) -/
  | reset
  /-- START (R146) -/
  | start
  /-- STOP (R147) -/
  | stop
  /-- BITCELL (R148, R150 to R152) -/
  | bitcell
  /-- ACKCELL (R155, R157) -/
  | ackcell
  /-- ADDR_WRITE (R153): address byte `a ‖ 0` -/
  | addrWrite (a : BitVec 7)
  /-- ADDR_READ (R153): address byte `a ‖ 1` -/
  | addrRead (a : BitVec 7)
  /-- ADDR_MISMATCH (R153): an address byte for another device -/
  | addrMismatch (b : Byte)
  /-- SEL_DATA_WRITE (R181) -/
  | selDataWrite
  /-- SEL_DATA_READ (R181) -/
  | selDataRead
  /-- SEL_CONTROL (R181) -/
  | selControl
  /-- SEL_BAD (R181, R182): any other selector byte -/
  | selBad (b : Byte)
  /-- RUN (R188): ignored bit 4, program address bits 11:0 -/
  | run (x : Bool) (a : BitVec 12)
  /-- RDCTL (R189) -/
  | rdctl (x : BitVec 4)
  /-- WRREG (R190): register address, ignored nibble, value -/
  | wrreg (r : BitVec 8) (x : BitVec 4) (v : Half)
  /-- WRMEM (R192): bank, ignored nibble, word count, base address, words -/
  | wrmem (bank : Bool) (x : BitVec 4) (n : Half) (a : Half) (ws : List WireWord)
  /-- RDREG (R194) -/
  | rdreg (x : BitVec 4)
  /-- RDMEM (R196): bank, ignored nibble -/
  | rdmem (bank : Bool) (x : BitVec 4)
  /-- BAD_2 (R197): command nibble 2 -/
  | bad2 (x : BitVec 4)
  /-- BAD_4_7 (R197): command nibbles 4 to 7, low six bits of the byte -/
  | bad47 (x : BitVec 6)
  /-- BAD_8 (R197): command nibble 8 -/
  | bad8 (x : BitVec 4)
  /-- BAD_C (R197): command nibble 0xC -/
  | badC (x : BitVec 4)
  /-- DATA_READ_GROUP (R184): `b` is what the master drives during the eight cells; it is sampled and not used (R114) -/
  | dataReadGroup (b : Byte)
  /-- CONTROL_BYTE (R183) -/
  | controlByte (b : Byte)
  /-- BAD_BYTE (R182) -/
  | badByte (b : Byte)
  /-- RegWrite (R231), the dispatch -/
  | regWrite (a : BitVec 8) (v : Half)
  /-- MemWrite (R232), the dispatch -/
  | memWrite (bank : Bool) (a : Half) (v : MemWord)
  /-- Fill (R267) -/
  | fill
deriving DecidableEq, Repr

/-- The input events of 00_scope.md R8, with their arguments as the caller gives them. -/
inductive Call where
  | setClock (l : Bool)
  | setData (l : Bool)
  | readClock
  | readData
  | feedByte (b : Byte)
  | produce (n : Nat)
  | reset
deriving DecidableEq, Repr

/-- The operation an input event is. -/
def Call.toInstr : Call → Instr
  | .setClock l => .setClock l
  | .setData l => .setData l
  | .readClock => .readClock
  | .readData => .readData
  | .feedByte b => .feedByte b
  | .produce n => .produce n
  | .reset => .reset

/-- What the outside world presents to the block next. DESIGN CHOICE: beside the input events of R8 a byte-level item, an
abbreviation of the line calls that clock the bytes in (30_encoding.md R100; assumption entry 5). -/
inductive Input where
  /-- one input event -/
  | call (k : Call)
  /-- the master clocks these bytes into the session -/
  | bytes (bs : List Byte)
deriving DecidableEq, Repr

/-- The byte formats of the table: what a byte of a session is, by where the session stands (30_encoding.md R103, R119). -/
inductive ByteFormat where
  | address
  | selector
  | command
  | read
  | control
  | bad
deriving DecidableEq, Repr

/-- The byte format of an operation's encoding; none for the operations the table gives no wire bytes. -/
def Instr.format : Instr → Option ByteFormat
  | .setClock _ => none
  | .setData _ => none
  | .readClock => none
  | .readData => none
  | .feedByte _ => none
  | .produce _ => none
  | .reset => none
  | .start => none
  | .stop => none
  | .bitcell => none
  | .ackcell => none
  | .addrWrite _ => some .address
  | .addrRead _ => some .address
  | .addrMismatch _ => some .address
  | .selDataWrite => some .selector
  | .selDataRead => some .selector
  | .selControl => some .selector
  | .selBad _ => some .selector
  | .run _ _ => some .command
  | .rdctl _ => some .command
  | .wrreg _ _ _ => some .command
  | .wrmem _ _ _ _ _ => some .command
  | .rdreg _ => some .command
  | .rdmem _ _ => some .command
  | .bad2 _ => some .command
  | .bad47 _ => some .command
  | .bad8 _ => some .command
  | .badC _ => some .command
  | .dataReadGroup _ => some .read
  | .controlByte _ => some .control
  | .badByte _ => some .bad
  | .regWrite _ _ => none
  | .memWrite _ _ _ => none
  | .fill => none

end Sys2Proof
end

