-- ==== Sys2Proof/WellFormed.lean ====
section
/-! DEFINITION. Which terms of `Instr` are operations of a block with given parameters: the conditions the opcode table and
30_encoding.md put on operands. -/

namespace Sys2Proof

/-- Operand conditions, for a block with parameters `c`: an address row carries the device's own address or not (R104), a bad
selector is none of the three constants (R105), a write-memory command carries as many words as it declares (R111). -/
def wellFormed (c : Config.Params) : Instr → Bool
  | .setClock _ => true
  | .setData _ => true
  | .readClock => true
  | .readData => true
  | .feedByte _ => true
  | .produce _ => true
  | .reset => true
  | .start => true
  | .stop => true
  | .bitcell => true
  | .ackcell => true
  | .addrWrite a => a == c.devAddr
  | .addrRead a => a == c.devAddr
  | .addrMismatch b => b.extractLsb' 1 7 != c.devAddr
  | .selDataWrite => true
  | .selDataRead => true
  | .selControl => true
  | .selBad b => b != c.selDataWrite && b != c.selDataRead && b != c.selControl
  | .run _ _ => true
  | .rdctl _ => true
  | .wrreg _ _ _ => true
  | .wrmem _ _ n _ ws => ws.length == n.toNat
  | .rdreg _ => true
  | .rdmem _ _ => true
  | .bad2 _ => true
  | .bad47 _ => true
  | .bad8 _ => true
  | .badC _ => true
  | .dataReadGroup _ => true
  | .controlByte _ => true
  | .badByte _ => true
  | .regWrite _ _ => true
  | .memWrite _ _ _ => true
  | .fill => true

end Sys2Proof
end

