-- ==== Sys2Proof/Decode.lean ====
section
/-! DEFINITION. The byte-level decoder, total on any bytes and rejecting by name, and the encoder, both written from the formats
of 30_encoding.md (layout `doc`). What a byte is depends on where the session stands (R103, R119); that context is the
decoder's `ByteFormat` argument, which the machine reads from its state. -/

namespace Sys2Proof

/-- Bits 3:0 of a byte. -/
def nibbleLo (b : Byte) : BitVec 4 := b.extractLsb' 0 4

/-- Bits 7:4 of a byte. -/
def nibbleHi (b : Byte) : BitVec 4 := b.extractLsb' 4 4

/-- Bits 7:1 of an address byte, `addr7` (R104). -/
def addr7 (b : Byte) : BitVec 7 := b.extractLsb' 1 7

/-- The high byte of a 16-bit operand. -/
def byteHi (v : Half) : Byte := v.extractLsb' 8 8

/-- The low byte of a 16-bit operand. -/
def byteLo (v : Half) : Byte := v.extractLsb' 0 8

/-- Why bytes are not an operation of the table. -/
inductive DecodeError where
  /-- no byte is there -/
  | noBytes
  /-- the session does not stand at a byte boundary where a table row begins -/
  | noRowBegins
  /-- the command's operand bytes are not all there -/
  | truncated
deriving DecidableEq, Repr

/-- An address byte (R104, R153). -/
def decodeAddress (c : Config.Params) (b : Byte) : Instr :=
  if addr7 b = c.devAddr then
    (if b.getLsbD 0 then .addrRead (addr7 b) else .addrWrite (addr7 b))
  else .addrMismatch b

/-- A selector byte (R105). -/
def decodeSelector (c : Config.Params) (b : Byte) : Instr :=
  if b = c.selDataWrite then .selDataWrite
  else if b = c.selDataRead then .selDataRead
  else if b = c.selControl then .selControl
  else .selBad b

/-- The 20-bit word of three wire bytes A, B, C: `C[3:0] ‖ A ‖ B` (R116), with the ignored nibble `C[7:4]`. -/
def wireWord (a b c : Byte) : WireWord := ⟨nibbleLo c ++ a ++ b, nibbleHi c⟩

/-- The first `n` memory words of a byte string, and the bytes after them. -/
def takeWords : Nat → List Byte → Option (List WireWord × List Byte)
  | 0, bs => some ([], bs)
  | n + 1, a :: b :: c :: bs =>
    match takeWords n bs with
    | some (ws, rest) => some (wireWord a b c :: ws, rest)
    | none => none
  | _ + 1, _ => none

/-- A command: its byte `b0` (R106, R107) and the bytes after it, of which it takes as many as its format has (R108 to R113). -/
def decodeCommand (b0 : Byte) (rest : List Byte) : Except DecodeError (Instr × List Byte) :=
  match nibbleHi b0 with
  | 0x0#4 | 0x1#4 =>
    match rest with
    | b1 :: t => .ok (.run (b0.getLsbD 4) (nibbleLo b0 ++ b1), t)
    | [] => .error .truncated
  | 0x2#4 => .ok (.bad2 (nibbleLo b0), rest)
  | 0x3#4 => .ok (.rdctl (nibbleLo b0), rest)
  | 0x8#4 => .ok (.bad8 (nibbleLo b0), rest)
  | 0x9#4 =>
    match rest with
    | b1 :: b2 :: b3 :: t => .ok (.wrreg (nibbleLo b0 ++ nibbleHi b1) (nibbleLo b1) (b2 ++ b3), t)
    | _ => .error .truncated
  | 0xA#4 | 0xB#4 =>
    match rest with
    | n1 :: n0 :: a1 :: a0 :: t =>
      match takeWords (n1 ++ n0 : Half).toNat t with
      | some (ws, t') => .ok (.wrmem (b0.getLsbD 4) (nibbleLo b0) (n1 ++ n0) (a1 ++ a0) ws, t')
      | none => .error .truncated
    | _ => .error .truncated
  | 0xC#4 => .ok (.badC (nibbleLo b0), rest)
  | 0xD#4 => .ok (.rdreg (nibbleLo b0), rest)
  | 0xE#4 | 0xF#4 => .ok (.rdmem (b0.getLsbD 4) (nibbleLo b0), rest)
  | _ => .ok (.bad47 (b0.extractLsb' 0 6), rest)

/-- The operation at the head of a byte string, and the bytes after it, in a session that stands at format `f`. -/
def decodeBytes (c : Config.Params) (f : ByteFormat) : List Byte → Except DecodeError (Instr × List Byte)
  | [] => .error .noBytes
  | b :: rest =>
    match f with
    | .address => .ok (decodeAddress c b, rest)
    | .selector => .ok (decodeSelector c b, rest)
    | .command => decodeCommand b rest
    | .read => .ok (.dataReadGroup b, rest)
    | .control => .ok (.controlByte b, rest)
    | .bad => .ok (.badByte b, rest)

/-- The operation an input item is, and the bytes it leaves over: an input event is the operation of that name; bytes are
decoded at the session's format `f`, if there is one. -/
def decodeInput (c : Config.Params) (f : Option ByteFormat) : Input → Except DecodeError (Instr × List Byte)
  | .call k => .ok (k.toInstr, [])
  | .bytes bs =>
    match f with
    | some f => decodeBytes c f bs
    | none => .error .noRowBegins

/-! ### The encoder -/

/-- The three wire bytes of a memory word (R111). -/
def encodeWord (w : WireWord) : List Byte :=
  [w.w.extractLsb' 8 8, w.w.extractLsb' 0 8, w.pad ++ w.w.extractLsb' 16 4]

/-- The wire bytes of an operation, for a block with parameters `c`; none for the operations without a wire encoding. -/
def encode (c : Config.Params) : Instr → List Byte
  | .setClock _ => []
  | .setData _ => []
  | .readClock => []
  | .readData => []
  | .feedByte _ => []
  | .produce _ => []
  | .reset => []
  | .start => []
  | .stop => []
  | .bitcell => []
  | .ackcell => []
  | .addrWrite a => [a ++ 0#1]
  | .addrRead a => [a ++ 1#1]
  | .addrMismatch b => [b]
  | .selDataWrite => [c.selDataWrite]
  | .selDataRead => [c.selDataRead]
  | .selControl => [c.selControl]
  | .selBad b => [b]
  | .run x a => [0#3 ++ BitVec.ofBool x ++ a.extractLsb' 8 4, a.extractLsb' 0 8]
  | .rdctl x => [0x3#4 ++ x]
  | .wrreg r x v => [0x9#4 ++ r.extractLsb' 4 4, r.extractLsb' 0 4 ++ x, byteHi v, byteLo v]
  | .wrmem bank x n a ws =>
    [0b101#3 ++ BitVec.ofBool bank ++ x, byteHi n, byteLo n, byteHi a, byteLo a] ++ ws.flatMap encodeWord
  | .rdreg x => [0xD#4 ++ x]
  | .rdmem bank x => [0b111#3 ++ BitVec.ofBool bank ++ x]
  | .bad2 x => [0x2#4 ++ x]
  | .bad47 x => [0b01#2 ++ x]
  | .bad8 x => [0x8#4 ++ x]
  | .badC x => [0xC#4 ++ x]
  | .dataReadGroup b => [b]
  | .controlByte b => [b]
  | .badByte b => [b]
  | .regWrite _ _ => []
  | .memWrite _ _ _ => []
  | .fill => []

/-! ### Words of the opcode table -/

/-- Byte `k` of a table word of `nbits` bits; bits above `nbits` are 0. -/
def tableByte (nbits w k : Nat) : Byte := BitVec.ofNat 8 ((w % 2 ^ nbits) / 2 ^ (8 * k))

/-- DESIGN CHOICE: the context of a table word, which the table does not give (assumption entry 13). A one-byte word below 0x20
is an address byte, since the only command there, RUN, has two bytes; every other word is a command. -/
def tableFormat (nbits w : Nat) : ByteFormat :=
  if nbits ≤ 8 ∧ w % 2 ^ nbits < 0x20 then .address else .command

/-- How many bytes the operation of a table word has (R107). -/
def tableLength (nbits w : Nat) : Nat :=
  match tableFormat nbits w with
  | .address => 1
  | _ =>
    match nibbleHi (tableByte nbits w 0) with
    | 0x0#4 | 0x1#4 => 2
    | 0x9#4 => 4
    | 0xA#4 | 0xB#4 => 5 + 3 * (tableByte nbits w 1 ++ tableByte nbits w 2 : Half).toNat
    | _ => 1

/-- The bytes of a table word, first byte first. -/
def tableBytes (nbits w : Nat) : List Byte :=
  (List.range (tableLength nbits w)).map (tableByte nbits w)

/-- The block a table word is for: the reference profile, with the address field of an address word as the device's address
(the table says it "must equal DEV_ADDR7", an open parameter). -/
def tableParams (nbits w : Nat) : Config.Params :=
  match tableFormat nbits w with
  | .address => { Config.referenceProfile with devAddr := addr7 (tableByte nbits w 0) }
  | _ => Config.referenceProfile

/-- The operation the decoder reads from a word of the opcode table. -/
def decodeTableWord (nbits w : Nat) : Option Instr :=
  if nbits = 0 then none
  else
    match decodeBytes (tableParams nbits w) (tableFormat nbits w) (tableBytes nbits w) with
    | .ok (i, _) => some i
    | .error _ => none

end Sys2Proof
end

