-- ==== Sys2Proof/Machine/State.lean ====
section
/-! DEFINITION. The state of the block as plain data: the record of 10_state.md R20, and five fields of the model's own (`cfg`,
`input`, `trace`, `ret`, `decodeCalls`; assumption entries 1, 2, 4, 6). Also the reasons a step can stop, and the reset state. -/

namespace Sys2Proof.Machine

open Sys2Proof.Config

/-- `BUS_STATE` (10_state.md R24). -/
inductive BusState where
  | idle
  | started
  | ack
  | ack2
  | nak
deriving DecidableEq, Repr

/-- `ADDR_STATUS` (10_state.md R28). -/
inductive AddrStatus where
  | unresolved
  | valid
  | invalid
deriving DecidableEq, Repr

/-- `SUBDEST` (10_state.md R29). -/
inductive SubDest where
  | undefined
  | control
  | dataWrite
  | dataRead
  | bad
deriving DecidableEq, Repr

/-- `CMD`, the pending command (10_state.md R31). -/
inductive Command where
  | runProgram
  | writeRegister
  | writeMemory
  | readRegister
  | readMemory
  | readControl
  | bad
deriving DecidableEq, Repr

/-- A gain: silence, or a number of decibels (10_state.md R44). -/
inductive GainVal where
  | zero
  | db (d : Int)
deriving DecidableEq, Repr

/-- An entry of the output event trace (00_scope.md R10). -/
inductive OutEvent where
  | transactionEnded
  | regWrite (a : BitVec 8) (v : Half)
  | memWrite (bank : Bool) (a : Half) (v : MemWord)
  | runProgram (a : Half)
  | readControl
  | readRegister
  | readMemory (bank : Bool)
  | controlByte (b : Byte)
  | demand (level : Bool)
  | frameSync (level : Bool)
deriving DecidableEq, Repr

/-- What a call returned to its caller: a line level (R144, R145) or a block of samples (R275). -/
inductive Ret where
  | none
  | level (l : Bool)
  | block (pairs : List OutPair)
deriving DecidableEq, Repr

/-- The state. The first 29 fields are the record of 10_state.md R20 (`RING_N` and `SMP_N` are the lengths of `ring` and
`smp`, R341); the last five are the model's own. -/
structure State where
  /-- `SCL_IN` (R21) -/
  sclIn : Bool
  /-- `SDA_IN` (R22) -/
  sdaIn : Bool
  /-- `SCL_OUT` (R23) -/
  sclOut : Bool
  /-- `SDA_OUT` (R25) -/
  sdaOut : Bool
  /-- `BUS_STATE` (R24) -/
  busState : BusState
  /-- `ACC` (R26) -/
  acc : Byte
  /-- `BIT_IDX` (R27); `none` stands for -1 -/
  bitIdx : Option (Fin 8)
  /-- `ADDR_STATUS` (R28) -/
  addrStatus : AddrStatus
  /-- `SUBDEST` (R29) -/
  subdest : SubDest
  /-- `POS` (R30) -/
  pos : Nat
  /-- `CMD` (R31) -/
  cmd : Command
  /-- `ADR` (R32) -/
  adr : Half
  /-- `VAL` (R33) -/
  val : MemWord
  /-- `COUNT` (R34) -/
  count : Half
  /-- `BANK` (R35) -/
  bank : Bool
  /-- `PAYLOAD` (R36) -/
  payload : Quad
  /-- `GAIN_LL` (R40) -/
  gainLL : GainVal
  /-- `GAIN_RR` (R41) -/
  gainRR : GainVal
  /-- `MUTED` (R42) -/
  muted : Bool
  /-- `FRAME_COUNTER` (R43) -/
  frameCounter : Quad
  /-- `RING[0 .. RING_N-1]`, oldest byte first (R45) -/
  ring : List Byte
  /-- `FRAME_BUFFERED` (R46) -/
  frameBuffered : Bool
  /-- `SMP[0 .. SMP_N-1]` (R47) -/
  smp : List Stereo
  /-- `SMP_RD` (R48) -/
  smpRd : Nat
  /-- `DEMAND` (R52) -/
  demand : Bool
  /-- `FRAME_SYNC` (R53) -/
  frameSync : Bool
  /-- `OUT_RATE` (R54) -/
  outRate : Nat
  /-- `OUT_GAIN_L` (R55) -/
  outGainL : GainVal
  /-- `OUT_GAIN_R` (R56) -/
  outGainR : GainVal
  /-- the parameters of the block (00_scope.md R11); no step writes them -/
  cfg : Params
  /-- what the outside world presents next, first item first -/
  input : List Input
  /-- the output event trace, oldest event first (00_scope.md R10) -/
  trace : List OutEvent
  /-- what the last value-returning call returned -/
  ret : Ret
  /-- how many times the decoder has been called -/
  decodeCalls : Nat
deriving DecidableEq, Repr

/-- Why the machine stops. -/
inductive Fault where
  /-- Raised by a bit cell while `BIT_IDX` is -1. 10_state.md R27 and 40_bus_protocol.md R150 exclude it, and no reachable
  state has it (assumption entry 8). Safe: it only stops where the spec gives no meaning. -/
  | bitIndexSpent
deriving DecidableEq, Repr

/-- Why the machine gives an operation no meaning. -/
inductive Refusal where
  /-- Raised by an arm of `exec` whose operation has no meaning yet; no arm of this model does. Safe: it only stops. -/
  | notModelled (mnemonic : String)
deriving DecidableEq, Repr

/-- The state after reset of a block with parameters `c`: the last column of 10_state.md R20, rule R60. -/
def State.resetWith (c : Params) : State where
  sclIn := true
  sdaIn := true
  sclOut := true
  sdaOut := true
  busState := .idle
  acc := 0#8
  bitIdx := some 7
  addrStatus := .unresolved
  subdest := .undefined
  pos := 0
  cmd := .bad
  adr := 0#16
  val := 0#20
  count := 0#16
  bank := false
  payload := 0#32
  gainLL := .zero
  gainRR := .zero
  muted := false
  frameCounter := 0#32
  ring := []
  frameBuffered := false
  smp := []
  smpRd := 0
  demand := true
  frameSync := false
  outRate := c.rateReset
  outGainL := .zero
  outGainR := .zero
  cfg := c
  input := []
  trace := []
  ret := .none
  decodeCalls := 0

/-- The machine right after reset, with the parameters of the reference profile (assumption entry 1) and nothing presented. -/
def State.reset : State := State.resetWith referenceProfile

end Sys2Proof.Machine
end

