-- ==== Sys2Proof/Machine/Operands.lean ====
section
/-! DEFINITION. Operand assembly (30_encoding.md R116, 41_command_interpreter.md R201): zero-extension, left shift by a constant
and bitwise OR, as the pseudocode of the commands has them; the bit written by a bit cell; the payload transposition. -/

namespace Sys2Proof.Machine

/-- `ACC[i] <- v` (40_bus_protocol.md R150). -/
def setBit (acc : Byte) (i : Fin 8) (v : Bool) : Byte :=
  (acc &&& ~~~(1#8 <<< i.val)) ||| (if v then 1#8 <<< i.val else 0#8)

/-- `zext_16(b[3:0]) << 8`: the first address byte of RUN (R188). -/
def runAddrHigh (b : Byte) : Half := (nibbleLo b).setWidth 16 <<< 8

/-- `zext_16(b[3:0]) << 4`: bits 7:4 of a register address (R190). -/
def regAddrHigh (b : Byte) : Half := (nibbleLo b).setWidth 16 <<< 4

/-- `adr | zext_16(b[7:4])`: bits 3:0 of a register address (R190). -/
def withRegAddrLow (adr : Half) (b : Byte) : Half := adr ||| (nibbleHi b).setWidth 16

/-- `zext_16(b) << 8`: the high byte of a count or of a base address (R192). -/
def halfHigh (b : Byte) : Half := b.setWidth 16 <<< 8

/-- `v | zext_16(b)`: the low byte of an address or a count (R188, R192). -/
def withHalfLow (v : Half) (b : Byte) : Half := v ||| b.setWidth 16

/-- `zext_20(b) << 8`: bits 15:8 of a value or of a memory word (R190, R192). -/
def valHigh (b : Byte) : MemWord := b.setWidth 20 <<< 8

/-- `v | zext_20(b)`: bits 7:0 of a value or of a memory word (R190, R192). -/
def withValLow (v : MemWord) (b : Byte) : MemWord := v ||| b.setWidth 20

/-- `v | (zext_20(b[3:0]) << 16)`: bits 19:16 of a memory word (R192). -/
def withValTop (v : MemWord) (b : Byte) : MemWord := v ||| ((nibbleLo b).setWidth 20 <<< 16)

/-- `ADR[7:0]`, the register address of write-register (R190). -/
def regAddr (adr : Half) : BitVec 8 := adr.extractLsb' 0 8

/-- `VAL[15:0]`, the value of write-register (R190). -/
def regValue (v : MemWord) : Half := v.extractLsb' 0 16

/-- `(ADR + idx) mod 2^16`, the address of word `idx` of write-memory (20_memory.md R85). -/
def wordAddr (adr : Half) (idx : Nat) : Half := adr + BitVec.ofNat 16 idx

/-- `Transpose(f) = f2 ‖ f3 ‖ f0 ‖ f1` (41_command_interpreter.md R200, 20_memory.md R79). -/
def transpose (f : Quad) : Quad :=
  f.extractLsb' 16 8 ++ f.extractLsb' 24 8 ++ f.extractLsb' 0 8 ++ f.extractLsb' 8 8

end Sys2Proof.Machine
end

