-- ==== Sys2Proof/Machine/Flags.lean ====
section
/-! DEFINITION. The Boolean conditions of the block (10_state.md R39): the demand rule, frame completeness, buffer exhaustion,
"immediately following a START", the released data line, the next bit index, and where a session stands. -/

namespace Sys2Proof.Machine

open Sys2Proof.Config

/-- The demand rule (43_decode_pipeline.md R266): demand unless a frame is buffered and the ring is full. -/
def demandRule (s : State) : Bool := !s.frameBuffered || decide (s.ring.length < s.cfg.ringCap)

/-- A frame found at `(off, size)` is complete strictly before fill level `n` (43_decode_pipeline.md R265). -/
def frameComplete (found : Nat × Nat) (n : Nat) : Bool :=
  decide (found.2 ≠ 0) && decide (found.1 + found.2 < n)

/-- The sample buffer is exhausted: `SMP_RD = SMP_N` (10_state.md R48). -/
def exhausted (s : State) : Bool := s.smpRd == s.smp.length

/-- No clock edge has occurred since the START (40_bus_protocol.md R147). -/
def justStarted (s : State) : Bool :=
  s.busState == .started && s.bitIdx == some 7 && s.addrStatus == .unresolved

/-- The data line level after a write of `Nak` or `Idle` into `BUS_STATE`: unchanged under `SDA_RELEASE = literal`, released
under `on_nak_idle` (40_bus_protocol.md R160). -/
def releasedSda (s : State) : Bool := s.sdaOut || s.cfg.sdaRelease == .onNakIdle

/-- The level a bit cell at index `i` drives (40_bus_protocol.md R151): the payload bit at `i + 8*POS` in `data-read`, else
low. An offset past bit 31, which no reachable state has, reads 0 (assumption entry 9). -/
def driveLevel (s : State) (i : Nat) : Bool :=
  if s.subdest = .dataRead then s.payload.getLsbD (i + 8 * s.pos) else false

/-- `BIT_IDX - 1` (40_bus_protocol.md R152). -/
def prevBitIdx (i : Fin 8) : Option (Fin 8) :=
  if i.val = 0 then none else some ⟨i.val - 1, by omega⟩

/-- The clock and bit position are such that the next eight clocked bits are one byte of the session: before its first bit, or
with the acknowledge cell of the byte before still to come. -/
def atByteBoundary (s : State) : Bool :=
  match s.busState with
  | .started => s.bitIdx == some 7
  | .ack => true
  | .ack2 => s.sclIn
  | .idle => false
  | .nak => false

/-- What format the next byte of the session has (30_encoding.md R103, R119); none where no row of the table begins: outside a
session, inside a byte, in `Nak`, or at an operand or surplus byte of a command. -/
def byteFormat (s : State) : Option ByteFormat :=
  if atByteBoundary s then
    match s.addrStatus with
    | .unresolved => some .address
    | .invalid => none
    | .valid =>
      match s.subdest with
      | .undefined => some .selector
      | .control => some .control
      | .bad => some .bad
      | .dataRead => some .read
      | .dataWrite => if s.pos = 0 then some .command else none
  else none

end Sys2Proof.Machine
end

