-- ==== Sys2Proof/Machine/Ops.lean ====
section
/-! DEFINITION. The shared operations of the block: emitting events, the ways into and out of the error states (the block's
exceptions, 60_exceptions.md), START and STOP, the net effect of the eight bit cells of a byte, device reset, and the line calls
a wire byte abbreviates. -/

namespace Sys2Proof.Machine

open Sys2Proof.Config

/-- The outcome of an operation of this machine. -/
abbrev Result := Host.Outcome State Fault Refusal

/-- `emit E` (00_scope.md R14). -/
def emit (e : OutEvent) (s : State) : State := { s with trace := s.trace ++ [e] }

/-- `emit Demand(level)`, which also writes the signal (00_scope.md R14, 10_state.md R52). -/
def emitDemand (level : Bool) (s : State) : State :=
  { s with demand := level, trace := s.trace ++ [.demand level] }

/-- `emit FrameSync(level)`, which also writes the signal (00_scope.md R14, 10_state.md R53). -/
def emitFrameSync (level : Bool) (s : State) : State :=
  { s with frameSync := level, trace := s.trace ++ [.frameSync level] }

/-- A call returns a value to its caller. -/
def returnValue (r : Ret) (s : State) : State := { s with ret := r }

/-! ### Entering and leaving the error states -/

/-- `BUS_STATE <- Nak`, with the data line as `SDA_RELEASE` says (40_bus_protocol.md R159, R160). -/
def enterNak (s : State) : State := { s with busState := .nak, sdaOut := releasedSda s }

/-- `raise ProtocolOverrun`, error class E1: force-NAK and nothing else (40_bus_protocol.md R158, 60_exceptions.md R301). -/
def raiseProtocolOverrun (s : State) : State := enterNak s

/-- `raise DecodeFailure`, error class E3: the full pipeline reset, which emits nothing (43_decode_pipeline.md R272). -/
def raiseDecodeFailure (s : State) : State :=
  { s with ring := [], smp := [], smpRd := 0, frameBuffered := false, frameCounter := 0#32 }

/-- `Start()` (40_bus_protocol.md R146), which also is a way out of `Nak` (60_exceptions.md R313). -/
def startCondition (s : State) : State :=
  { s with busState := .started, bitIdx := some 7, acc := 0#8, addrStatus := .unresolved }

/-- `Stop()` (40_bus_protocol.md R147), which also is a way out of `Nak` (60_exceptions.md R313). -/
def stopCondition (s : State) : State :=
  { s with
    trace := s.trace ++ [.transactionEnded]
    busState := .idle
    sdaOut := releasedSda s
    addrStatus := .unresolved
    acc := 0#8
    bitIdx := some 7
    subdest := .undefined
    pos := 0
    cmd := .bad }

/-! ### Bytes of a session -/

/-- `BUS_STATE <- Ack` (40_bus_protocol.md R153, R154). -/
def acknowledge (s : State) : State := { s with busState := .ack }

/-- The net effect of the eight bit cells of byte `b` and of the clock fall that ends them, completion apart: the byte stands
in `ACC`, `BIT_IDX` is -1, `SDA_OUT` is as the last cell drove it, and the lines are as the master left them
(40_bus_protocol.md R150 to R152, R164). -/
def clockIn (b : Byte) (s : State) : State :=
  { s with
    sclIn := false
    sdaIn := b.getLsbD 0
    sdaOut := driveLevel s 0
    acc := b
    bitIdx := none }

/-- A byte clocked while the bus is in `Nak`: only the line levels follow (40_bus_protocol.md R156, R159). -/
def clockPast (b : Byte) (s : State) : State := { s with sclIn := false, sdaIn := b.getLsbD 0 }

/-- The line calls that bring the clock low and give the acknowledge pulse that is still to come. -/
def leadInCalls (s : State) : List Call :=
  (if s.sclIn then [.setClock false] else []) ++
  (if s.busState = .ack then [.setClock true, .setClock false] else [])

/-- The line calls of one data bit cell (30_encoding.md R130): the data line is set while the clock is low, then the clock rises
and falls. -/
def bitCalls (v : Bool) : List Call := [.setData v, .setClock true, .setClock false]

/-- The line calls that clock byte `b` into the session, most significant bit first (30_encoding.md R102, R130). -/
def wireCalls (s : State) (b : Byte) : List Call :=
  leadInCalls s ++ bitCalls (b.getLsbD 7) ++ bitCalls (b.getLsbD 6) ++ bitCalls (b.getLsbD 5) ++ bitCalls (b.getLsbD 4) ++
    bitCalls (b.getLsbD 3) ++ bitCalls (b.getLsbD 2) ++ bitCalls (b.getLsbD 1) ++ bitCalls (b.getLsbD 0)

/-! ### The input -/

/-- The input after an item that left `tail` over. -/
def requeue (tail : List Byte) (rest : List Input) : List Input :=
  if tail = [] then rest else .bytes tail :: rest

/-- An item that is no operation of the table: its first byte becomes the line calls it abbreviates (assumption entry 5). -/
def expandInput (item : Input) (rest : List Input) (s : State) : State :=
  match item with
  | .bytes (b :: tail) => { s with input := (wireCalls s b).map Input.call ++ requeue tail rest }
  | .bytes [] => { s with input := rest }
  | .call _ => { s with input := rest }

/-! ### Device reset -/

/-- `Reset()` (70_reset_and_hazards.md R340): every element of 10_state.md R20 at its reset value, no event. The parameters, the
event trace, the last returned value, the calls still to come and the decoder's call number are not of that record and stay
(assumption entry 16). -/
def deviceReset (s : State) : State :=
  { State.resetWith s.cfg with
    input := s.input
    trace := s.trace
    ret := s.ret
    decodeCalls := s.decodeCalls }

end Sys2Proof.Machine
end

