-- ==== Sys2Proof/Machine/Gain.lean ====
section
/-! DEFINITION. The register and memory dispatches with the gain and mute subsystem (42_dispatch_gain_mute.md), and the meanings
of the rows RegWrite and MemWrite. -/

namespace Sys2Proof.Machine

open Sys2Proof.Config

/-! ### Gain conversion -/

/-- Rows -114 to -92 of the table of R241: the last `x` of the row and its `db`. -/
def gainRows0 : List (Nat × Int) :=
  [(1, -114), (2, -108), (3, -105), (4, -102), (5, -100), (6, -99),
   (7, -97), (8, -96), (9, -95), (11, -94), (12, -93), (13, -92)]

/-- Rows -91 to -80 of the table of R241: the last `x` of the row and its `db`. -/
def gainRows1 : List (Nat × Int) :=
  [(15, -91), (17, -90), (19, -89), (22, -88), (24, -87), (27, -86),
   (31, -85), (35, -84), (39, -83), (44, -82), (49, -81), (55, -80)]

/-- Rows -79 to -68 of the table of R241: the last `x` of the row and its `db`. -/
def gainRows2 : List (Nat × Int) :=
  [(62, -79), (69, -78), (78, -77), (88, -76), (98, -75), (110, -74),
   (124, -73), (139, -72), (156, -71), (175, -70), (197, -69), (221, -68)]

/-- Rows -67 to -56 of the table of R241: the last `x` of the row and its `db`. -/
def gainRows3 : List (Nat × Int) :=
  [(248, -67), (278, -66), (312, -65), (350, -64), (393, -63), (441, -62),
   (494, -61), (555, -60), (623, -59), (699, -58), (784, -57), (880, -56)]

/-- Rows -55 to -44 of the table of R241: the last `x` of the row and its `db`. -/
def gainRows4 : List (Nat × Int) :=
  [(987, -55), (1108, -54), (1243, -53), (1394, -52), (1565, -51), (1756, -50),
   (1970, -49), (2210, -48), (2480, -47), (2783, -46), (3122, -45), (3504, -44)]

/-- Rows -43 to -32 of the table of R241: the last `x` of the row and its `db`. -/
def gainRows5 : List (Nat × Int) :=
  [(3931, -43), (4411, -42), (4949, -41), (5553, -40), (6231, -39), (6991, -38),
   (7844, -37), (8801, -36), (9875, -35), (11080, -34), (12432, -33), (13949, -32)]

/-- Rows -31 to -20 of the table of R241: the last `x` of the row and its `db`. -/
def gainRows6 : List (Nat × Int) :=
  [(15652, -31), (17561, -30), (19704, -29), (22109, -28), (24806, -27), (27833, -26),
   (31229, -25), (35040, -24), (39316, -23), (44113, -22), (49495, -21), (55535, -20)]

/-- Rows -19 to -8 of the table of R241: the last `x` of the row and its `db`. -/
def gainRows7 : List (Nat × Int) :=
  [(62311, -19), (69914, -18), (78445, -17), (88017, -16), (98757, -15), (110807, -14),
   (124328, -13), (139498, -12), (156520, -11), (175618, -10), (197047, -9), (221090, -8)]

/-- Rows -7 to 4 of the table of R241: the last `x` of the row and its `db`. -/
def gainRows8 : List (Nat × Int) :=
  [(248067, -7), (278336, -6), (312298, -5), (350404, -4), (393160, -3), (441133, -2),
   (494959, -1), (555354, 0), (623117, 1), (699149, 2), (784458, 3), (880176, 4)]

/-- Rows 5 to 6 of the table of R241: the last `x` of the row and its `db`. -/
def gainRows9 : List (Nat × Int) :=
  [(987574, 5), (1048576, 6)]

/-- The table of R241, by rising `x`. -/
def gainTable : List (Nat × Int) :=
  gainRows0 ++ gainRows1 ++ gainRows2 ++ gainRows3 ++ gainRows4 ++ gainRows5 ++ gainRows6 ++ gainRows7 ++ gainRows8 ++ gainRows9

/-- The `db` of the first row whose last `x` reaches the given one; 6, the last row's, past the end of the table. -/
def lookupDb : List (Nat × Int) → Nat → Int
  | [], _ => 6
  | (upTo, d) :: rows, x => if x ≤ upTo then d else lookupDb rows x

/-- `gain_to_db(raw)`, the integer nearest to `20 * log10(x / 524288)` for `x = 0x100000 - raw`, by the table
(42_dispatch_gain_mute.md R239, R241). -/
def gainToDb (raw : MemWord) : Int := lookupDb gainTable (0x100000 - raw.toNat)

/-- `G(raw)` (42_dispatch_gain_mute.md R240): raw 0 is silence. -/
def gainOf (raw : MemWord) : GainVal := if raw = 0#20 then .zero else .db (gainToDb raw)

/-! ### Effects -/

/-- `GainLL(v)` (42_dispatch_gain_mute.md R234). -/
def gainLeft (v : MemWord) (s : State) : State :=
  { s with gainLL := gainOf v, outGainL := if s.muted then s.outGainL else gainOf v }

/-- `GainRR(v)` (42_dispatch_gain_mute.md R235). -/
def gainRight (v : MemWord) (s : State) : State :=
  { s with gainRR := gainOf v, outGainR := if s.muted then s.outGainR else gainOf v }

/-- `Mute(v)` (42_dispatch_gain_mute.md R237). -/
def mute (v : Half) (s : State) : State :=
  { s with
    muted := v == 1#16
    outGainL := if v = 1#16 then .zero else s.gainLL
    outGainR := if v = 1#16 then .zero else s.gainRR }

/-- `RegWrite(a, v)` (42_dispatch_gain_mute.md R231, R238): the event, then the mute register's effect. -/
def regWrite (a : BitVec 8) (v : Half) (s : State) : State :=
  let s := emit (.regWrite a v) s
  if a = s.cfg.regMute then mute v s else s

/-- `MemWrite(bank, a, v)` (42_dispatch_gain_mute.md R232): the event, then the gain location's effect. The cross-coupled
locations (R236) and every other location (R238) have none. -/
def memWrite (bank : Bool) (a : Half) (v : MemWord) (s : State) : State :=
  let s := emit (.memWrite bank a v) s
  if MemLoc.mk bank a = s.cfg.memGainLL then gainLeft v s
  else if MemLoc.mk bank a = s.cfg.memGainRR then gainRight v s
  else s

/-- `RunProgram(a)`: an event and nothing else (42_dispatch_gain_mute.md R233). -/
def runProgram (a : Half) (s : State) : State := emit (.runProgram a) s

/-! ### Meanings -/

/-- RegWrite (R231). -/
def execRegWrite (a : BitVec 8) (v : Half) (s : State) : Result := .next (regWrite a v s)

/-- MemWrite (R232). -/
def execMemWrite (bank : Bool) (a : Half) (v : MemWord) (s : State) : Result := .next (memWrite bank a v s)

end Sys2Proof.Machine
end

