-- ==== Sys2Proof/Machine/Command.lean ====
section
/-! DEFINITION. The command interpreter (41_command_interpreter.md): sub-destination selection, the read groups, the commands
byte by byte, and the meanings of the selector, command, read, control and bad rows. A row's meaning takes the bytes of its
encoding through the bit cells (`clockIn`) and hands them to the interpreter as 40_bus_protocol.md R154 does. -/

namespace Sys2Proof.Machine

open Sys2Proof.Config

/-! ### Selection, read groups, control bytes -/

/-- `Select(b)` (R181). -/
def select (b : Byte) (s : State) : State :=
  if b = s.cfg.selDataWrite then { s with subdest := .dataWrite, pos := 0 }
  else if b = s.cfg.selDataRead then { s with subdest := .dataRead, payload := transpose s.frameCounter, pos := 0 }
  else if b = s.cfg.selControl then { s with subdest := .control, pos := 0 }
  else { s with subdest := .bad, pos := 0 }

/-- `DataRead()` (R184): two groups are accepted, the third is an overrun. -/
def dataRead (s : State) : State :=
  if 2 ≤ s.pos then raiseProtocolOverrun s else { s with pos := s.pos + 1 }

/-- A byte of the `control` sub-destination (R183). -/
def controlByte (b : Byte) (s : State) : State := emit (.controlByte b) s

/-- A byte of the `bad` sub-destination (R182): nothing. -/
def discardByte (s : State) : State := s

/-! ### The commands, one byte at position `POS`; `none` is `raise ProtocolOverrun` -/

/-- `Run(b)` (R188, R198). -/
def runByte (b : Byte) (s : State) : Option State :=
  match s.pos with
  | 0 => some { s with adr := runAddrHigh b }
  | 1 => some (runProgram (withHalfLow s.adr b) { s with adr := withHalfLow s.adr b })
  | _ => some s

/-- `RdCtl(b)` (R189, R198). -/
def readControlByte (s : State) : Option State :=
  match s.pos with
  | 0 => some (emit .readControl s)
  | _ => some s

/-- `WrReg(b)` (R190). -/
def writeRegisterByte (b : Byte) (s : State) : Option State :=
  match s.pos with
  | 0 => some { s with adr := regAddrHigh b }
  | 1 => some { s with adr := withRegAddrLow s.adr b }
  | 2 => some { s with val := valHigh b }
  | 3 => some (regWrite (regAddr s.adr) (regValue (withValLow s.val b)) { s with val := withValLow s.val b })
  | _ => none

/-- A word byte of write-memory, at byte `k` after the header (R192): the overrun test, then the assembly. -/
def memoryWordByte (k : Nat) (b : Byte) (s : State) : Option State :=
  if s.count.toNat ≤ k / 3 then none
  else
    match k % 3 with
    | 0 => some { s with val := valHigh b }
    | 1 => some { s with val := withValLow s.val b }
    | _ => some (memWrite s.bank (wordAddr s.adr (k / 3)) (withValTop s.val b) { s with val := withValTop s.val b })

/-- `WrMem(b)` (R192). -/
def writeMemoryByte (b : Byte) (s : State) : Option State :=
  match s.pos with
  | 0 => some { s with bank := b.getLsbD 4 }
  | 1 => some { s with count := halfHigh b }
  | 2 => some { s with count := withHalfLow s.count b }
  | 3 => some { s with adr := halfHigh b }
  | 4 => some { s with adr := withHalfLow s.adr b }
  | k + 5 => memoryWordByte k b s

/-- `RdReg(b)` (R194, R198). -/
def readRegisterByte (s : State) : Option State :=
  match s.pos with
  | 0 => some (emit .readRegister s)
  | _ => some s

/-- `RdMem(b)` (R196, R198). -/
def readMemoryByte (b : Byte) (s : State) : Option State :=
  match s.pos with
  | 0 => some (emit (.readMemory (b.getLsbD 4)) { s with bank := b.getLsbD 4 })
  | _ => some s

/-- The switch of `Operand(b)` (R187). -/
def commandByte (b : Byte) (s : State) : Option State :=
  match s.cmd with
  | .runProgram => runByte b s
  | .readControl => readControlByte s
  | .writeRegister => writeRegisterByte b s
  | .writeMemory => writeMemoryByte b s
  | .readRegister => readRegisterByte s
  | .readMemory => readMemoryByte b s
  | .bad => some s

/-- `Operand(b)` (R187): the command's byte, then `POS` counts it, unless it is an overrun. -/
def operand (b : Byte) (s : State) : State :=
  match commandByte b s with
  | some t => { t with pos := t.pos + 1 }
  | none => raiseProtocolOverrun s

/-- The pending command a command byte's high nibble selects (R186, 30_encoding.md R107). -/
def pendingCommand (b : Byte) : Command :=
  match nibbleHi b with
  | 0x0#4 | 0x1#4 => .runProgram
  | 0x3#4 => .readControl
  | 0x9#4 => .writeRegister
  | 0xA#4 | 0xB#4 => .writeMemory
  | 0xD#4 => .readRegister
  | 0xE#4 | 0xF#4 => .readMemory
  | _ => .bad

/-- `DecodeCommand(b)` (R186). -/
def decodeCommandByte (b : Byte) (s : State) : State := operand b { s with cmd := pendingCommand b }

/-- `DataWrite(b)` (R185). -/
def dataWrite (b : Byte) (s : State) : State :=
  if s.pos = 0 then decodeCommandByte b s else operand b s

/-- `Interpret(b)` (R180). -/
def interpret (b : Byte) (s : State) : State :=
  match s.subdest with
  | .undefined => select b s
  | .bad => discardByte s
  | .control => controlByte b s
  | .dataRead => dataRead s
  | .dataWrite => dataWrite b s

/-! ### Meanings -/

/-- One byte of the `data-write` sub-destination, from its first bit cell to its completion (40_bus_protocol.md R148, R154); in
`Nak` it is not consumed (R159). -/
def commandWireByte (s : State) (b : Byte) : State :=
  if s.busState = .nak then clockPast b s else dataWrite b (acknowledge (clockIn b s))

/-- The bytes of a command in wire order. -/
def commandWireBytes (bs : List Byte) (s : State) : State := bs.foldl commandWireByte s

/-- SEL_DATA_WRITE (R181). -/
def execSelDataWrite (s : State) : Result :=
  .next (select s.cfg.selDataWrite (acknowledge (clockIn s.cfg.selDataWrite s)))

/-- SEL_DATA_READ (R181, R200). -/
def execSelDataRead (s : State) : Result :=
  .next (select s.cfg.selDataRead (acknowledge (clockIn s.cfg.selDataRead s)))

/-- SEL_CONTROL (R181). -/
def execSelControl (s : State) : Result :=
  .next (select s.cfg.selControl (acknowledge (clockIn s.cfg.selControl s)))

/-- SEL_BAD (R181, error class E2 of 60_exceptions.md R302). -/
def execSelBad (b : Byte) (s : State) : Result := .next (select b (acknowledge (clockIn b s)))

/-- RUN (R188): `000x aaaa`, `aaaaaaaa`. -/
def execRun (x : Bool) (a : BitVec 12) (s : State) : Result :=
  .next (commandWireBytes (encode s.cfg (.run x a)) s)

/-- RDCTL (R189). -/
def execRdctl (x : BitVec 4) (s : State) : Result := .next (commandWireBytes (encode s.cfg (.rdctl x)) s)

/-- WRREG (R190). -/
def execWrreg (r : BitVec 8) (x : BitVec 4) (v : Half) (s : State) : Result :=
  .next (commandWireBytes (encode s.cfg (.wrreg r x v)) s)

/-- WRMEM (R192). -/
def execWrmem (bank : Bool) (x : BitVec 4) (n : Half) (a : Half) (ws : List WireWord) (s : State) : Result :=
  .next (commandWireBytes (encode s.cfg (.wrmem bank x n a ws)) s)

/-- RDREG (R194). -/
def execRdreg (x : BitVec 4) (s : State) : Result := .next (commandWireBytes (encode s.cfg (.rdreg x)) s)

/-- RDMEM (R196). -/
def execRdmem (bank : Bool) (x : BitVec 4) (s : State) : Result :=
  .next (commandWireBytes (encode s.cfg (.rdmem bank x)) s)

/-- BAD_2 (R197, error class E2). -/
def execBad2 (x : BitVec 4) (s : State) : Result := .next (commandWireBytes (encode s.cfg (.bad2 x)) s)

/-- BAD_4_7 (R197, error class E2). -/
def execBad47 (x : BitVec 6) (s : State) : Result := .next (commandWireBytes (encode s.cfg (.bad47 x)) s)

/-- BAD_8 (R197, error class E2). -/
def execBad8 (x : BitVec 4) (s : State) : Result := .next (commandWireBytes (encode s.cfg (.bad8 x)) s)

/-- BAD_C (R197, error class E2). -/
def execBadC (x : BitVec 4) (s : State) : Result := .next (commandWireBytes (encode s.cfg (.badC x)) s)

/-- DATA_READ_GROUP (R184): the cells drive the payload byte at `POS` (40_bus_protocol.md R151). -/
def execDataReadGroup (b : Byte) (s : State) : Result := .next (dataRead (acknowledge (clockIn b s)))

/-- CONTROL_BYTE (R183). -/
def execControlByte (b : Byte) (s : State) : Result := .next (controlByte b (acknowledge (clockIn b s)))

/-- BAD_BYTE (R182). -/
def execBadByte (b : Byte) (s : State) : Result := .next (discardByte (acknowledge (clockIn b s)))

end Sys2Proof.Machine
end

