-- ==== Sys2Proof/Machine/Bus.lean ====
section
/-! DEFINITION. The bus protocol state machine (40_bus_protocol.md) and the meanings of the line calls, the line conditions, the
address bytes and device reset. -/

namespace Sys2Proof.Machine

open Sys2Proof.Config

/-- `AddressByte(b)` (R153): a match opens the session for this device, a mismatch is error class E4 (60_exceptions.md R304). -/
def addressByte (b : Byte) (s : State) : State :=
  if addr7 b = s.cfg.devAddr then
    { acknowledge s with
      addrStatus := .valid
      subdest := if b = s.cfg.readAddrByte then .dataRead else .undefined
      pos := 0
      acc := 0#8 }
  else { enterNak s with addrStatus := .invalid }

/-- `DataByte(b)` (R154). -/
def dataByte (b : Byte) (s : State) : State := interpret b (acknowledge s)

/-- `ByteComplete()` (R152). The third case cannot occur in `Started` (10_state.md R28). -/
def byteComplete (s : State) : State :=
  match s.addrStatus with
  | .unresolved => addressByte s.acc s
  | .valid => dataByte s.acc s
  | .invalid => s

/-- `BitCell()` (R148): sample, drive, count, and at the eighth cell complete (R150 to R152, R164). -/
def bitCell (s : State) : Result :=
  match s.bitIdx with
  | none => .fault .bitIndexSpent
  | some i =>
    let t := { s with acc := setBit s.acc i s.sdaIn, sdaOut := driveLevel s i.val, bitIdx := prevBitIdx i }
    if i.val = 0 then .next (byteComplete t) else .next t

/-- The clock rise of an acknowledge cell (R155). -/
def ackRise (s : State) : State :=
  match s.busState with
  | .ack => { s with busState := .ack2 }
  | _ => s

/-- The clock fall of an acknowledge cell (R157). -/
def ackFall (s : State) : State :=
  match s.busState with
  | .ack2 => { s with busState := .started, bitIdx := some 7, acc := 0#8 }
  | _ => s

/-- A clock rising edge, `SCL_IN` already written (R142, R155, R156). -/
def clockRise (s : State) : Result :=
  match s.busState with
  | .started => bitCell s
  | _ => .next (ackRise s)

/-! ### Meanings -/

/-- SetClock (R142). -/
def execSetClock (l : Bool) (s : State) : Result :=
  if l = s.sclIn then .next s
  else if l then clockRise { s with sclIn := true }
  else .next (ackFall { s with sclIn := false })

/-- SetData (R143). -/
def execSetData (l : Bool) (s : State) : Result :=
  if l = s.sdaIn then .next s
  else if s.sclIn then
    if l then
      if justStarted s then .next { s with sdaIn := true } else .next (stopCondition { s with sdaIn := true })
    else .next (startCondition { s with sdaIn := false })
  else .next { s with sdaIn := l }

/-- ReadClock (R144). -/
def execReadClock (s : State) : Result := .next (returnValue (.level (s.sclIn && s.sclOut)) s)

/-- ReadData (R145). -/
def execReadData (s : State) : Result := .next (returnValue (.level (s.sdaIn && s.sdaOut)) s)

/-- Reset (R340). -/
def execReset (s : State) : Result := .next (deviceReset s)

/-- START (R146). -/
def execStart (s : State) : Result := .next (startCondition s)

/-- STOP (R147). -/
def execStop (s : State) : Result := .next (stopCondition s)

/-- BITCELL (R148). -/
def execBitcell (s : State) : Result := bitCell s

/-- ACKCELL (R155, then R157). -/
def execAckcell (s : State) : Result := .next (ackFall (ackRise s))

/-- ADDR_WRITE (R153): the address byte `a ‖ 0`, from its first bit cell to its completion. -/
def execAddrWrite (a : BitVec 7) (s : State) : Result := .next (addressByte (a ++ 0#1) (clockIn (a ++ 0#1) s))

/-- ADDR_READ (R153): the address byte `a ‖ 1`. -/
def execAddrRead (a : BitVec 7) (s : State) : Result := .next (addressByte (a ++ 1#1) (clockIn (a ++ 1#1) s))

/-- ADDR_MISMATCH (R153): an address byte for another device. -/
def execAddrMismatch (b : Byte) (s : State) : Result := .next (addressByte b (clockIn b s))

end Sys2Proof.Machine
end

