-- ==== Sys2Proof/Machine/Pipeline.lean ====
section
/-! DEFINITION. The streaming decode pipeline (43_decode_pipeline.md), for any oracles, and the meanings of FeedByte, Produce and
Fill, which use the block's own. -/

namespace Sys2Proof.Machine

open Sys2Proof.Config

/-! ### Ingest -/

/-- The ring after the oldest byte is evicted if it is full, and `b` appended (R264, 20_memory.md R73). -/
def pushByte (b : Byte) (s : State) : List Byte :=
  (if s.ring.length = s.cfg.ringCap then s.ring.drop 1 else s.ring) ++ [b]

/-- `Detect()` (R265). -/
def detect (o : Oracles) (s : State) : State :=
  { s with frameBuffered := frameComplete (o.findFrame s.ring) s.ring.length }

/-- `FeedByte(b)` (R264). -/
def feedByte (o : Oracles) (b : Byte) (s : State) : State :=
  let s := { s with ring := pushByte b s }
  let s := if s.frameBuffered then s else detect o s
  emitDemand (demandRule s) s

/-! ### Fill -/

/-- `FillSuccess(samples, consumed, rate)` (R270). -/
def fillSuccess (d : Decoded) (s : State) : State :=
  let s := { s with
    smp := d.samples
    smpRd := 0
    ring := s.ring.drop d.consumed
    outRate := d.rate
    frameCounter := s.frameCounter + 1#32
    frameBuffered := false }
  let s := emitFrameSync true s
  emitDemand (demandRule s) s

/-- `DecodeStep()` (R268): the decoder sees the whole ring; no samples is a failure. -/
def decodeStep (o : Oracles) (s : State) : State :=
  let d := o.decode s.decodeCalls s.ring
  let s := { s with decodeCalls := s.decodeCalls + 1 }
  if d.samples = [] then raiseDecodeFailure s else fillSuccess d s

/-- `Fill()` (R267). -/
def fill (o : Oracles) (s : State) : State :=
  let s := emitFrameSync false s
  if s.frameBuffered then decodeStep o s else emitDemand true s

/-! ### Pull -/

/-- A decoded pair in the output format (R277). -/
def outPair (o : Oracles) (p : Stereo) : OutPair := ⟨o.conv p.left, o.conv p.right⟩

/-- One iteration's Fill, if the sample buffer is exhausted (R275). -/
def refill (o : Oracles) (s : State) : State := if exhausted s then fill o s else s

/-- `Produce(n)` (R275, R276): the block of `n` pairs and the state after it. -/
def produce (o : Oracles) : Nat → State → List OutPair × State
  | 0, s => ([], s)
  | n + 1, s =>
    let s := refill o s
    match s.smp[s.smpRd]? with
    | none => (List.replicate (n + 1) silence, s)
    | some p =>
      let r := produce o n { s with smpRd := s.smpRd + 1 }
      (outPair o p :: r.1, r.2)

/-! ### Meanings -/

/-- FeedByte (R264). -/
def execFeedByte (b : Byte) (s : State) : Result := .next (feedByte (oracles s.cfg.sampleCap) b s)

/-- Produce (R275). -/
def execProduce (n : Nat) (s : State) : Result :=
  .next (returnValue (.block (produce (oracles s.cfg.sampleCap) n s).1) (produce (oracles s.cfg.sampleCap) n s).2)

/-- Fill (R267). -/
def execFill (s : State) : Result := .next (fill (oracles s.cfg.sampleCap) s)

end Sys2Proof.Machine
end

