-- ==== Sys2Proof/Machine/Dispatch.lean ====
section
/-! DEFINITION. The meaning of every operation of the opcode table, one arm per constructor. -/

namespace Sys2Proof.Machine

def exec (i : Instr) (s : State) : Host.Outcome State Fault Refusal :=
  match i with
  | .setClock l => Sys2Proof.Machine.execSetClock l s
  | .setData l => Sys2Proof.Machine.execSetData l s
  | .readClock => Sys2Proof.Machine.execReadClock s
  | .readData => Sys2Proof.Machine.execReadData s
  | .feedByte b => Sys2Proof.Machine.execFeedByte b s
  | .produce n => Sys2Proof.Machine.execProduce n s
  | .reset => Sys2Proof.Machine.execReset s
  | .start => Sys2Proof.Machine.execStart s
  | .stop => Sys2Proof.Machine.execStop s
  | .bitcell => Sys2Proof.Machine.execBitcell s
  | .ackcell => Sys2Proof.Machine.execAckcell s
  | .addrWrite a => Sys2Proof.Machine.execAddrWrite a s
  | .addrRead a => Sys2Proof.Machine.execAddrRead a s
  | .addrMismatch b => Sys2Proof.Machine.execAddrMismatch b s
  | .selDataWrite => Sys2Proof.Machine.execSelDataWrite s
  | .selDataRead => Sys2Proof.Machine.execSelDataRead s
  | .selControl => Sys2Proof.Machine.execSelControl s
  | .selBad b => Sys2Proof.Machine.execSelBad b s
  | .run x a => Sys2Proof.Machine.execRun x a s
  | .rdctl x => Sys2Proof.Machine.execRdctl x s
  | .wrreg r x v => Sys2Proof.Machine.execWrreg r x v s
  | .wrmem bank x n a ws => Sys2Proof.Machine.execWrmem bank x n a ws s
  | .rdreg x => Sys2Proof.Machine.execRdreg x s
  | .rdmem bank x => Sys2Proof.Machine.execRdmem bank x s
  | .bad2 x => Sys2Proof.Machine.execBad2 x s
  | .bad47 x => Sys2Proof.Machine.execBad47 x s
  | .bad8 x => Sys2Proof.Machine.execBad8 x s
  | .badC x => Sys2Proof.Machine.execBadC x s
  | .dataReadGroup b => Sys2Proof.Machine.execDataReadGroup b s
  | .controlByte b => Sys2Proof.Machine.execControlByte b s
  | .badByte b => Sys2Proof.Machine.execBadByte b s
  | .regWrite a v => Sys2Proof.Machine.execRegWrite a v s
  | .memWrite bank a v => Sys2Proof.Machine.execMemWrite bank a v s
  | .fill => Sys2Proof.Machine.execFill s

end Sys2Proof.Machine
end

