-- ==== Sys2Proof/Machine/Step.lean ====
section
/-! DEFINITION. One step of the machine: the next item of the input is decoded in the context of the session and its operation
runs. With nothing presented the block waits (70_reset_and_hazards.md R340). -/

namespace Sys2Proof.Machine

/-- One step. An item that is no operation of the table (a byte in the middle of a command, inside a partial byte, or outside a
session of this device) is replaced by the line calls it abbreviates. -/
def step (s : State) : Host.Outcome State Fault Refusal :=
  match s.input with
  | [] => .next s
  | item :: rest =>
    match decodeInput s.cfg (byteFormat s) item with
    | .ok (i, tail) => exec i { s with input := requeue tail rest }
    | .error _ => .next (expandInput item rest s)

/-- The state in which the next step fetches and runs the operation of a table word: its bytes are presented to a session that
stands at the word's format (the address byte after a START, or the command byte of a data-write session), on a block whose
address is the word's where the word is an address byte (assumption entry 13). -/
def State.withFetchWord (s : State) (nbits w : Nat) : State :=
  match tableFormat nbits w with
  | .address =>
    { s with
      input := .bytes (tableBytes nbits w) :: s.input
      cfg := { s.cfg with devAddr := addr7 (tableByte nbits w 0) }
      busState := .started
      bitIdx := some 7
      acc := 0#8
      addrStatus := .unresolved }
  | _ =>
    { s with
      input := .bytes (tableBytes nbits w) :: s.input
      busState := .started
      bitIdx := some 7
      acc := 0#8
      addrStatus := .valid
      subdest := .dataWrite
      pos := 0 }

end Sys2Proof.Machine
end

