-- ==== Sys2Proof/Safety.lean ====
section
/-! DEFINITION. The terms the claims use: the invariant of the block's reachable states, runs of line calls, which fields belong
to the bus side and which to the pipeline, and the factor of a gain. -/

namespace Sys2Proof.Machine

open Sys2Proof.Config

/-- A gain value within `-114 <= d <= 6` (10_state.md R44). -/
def GainVal.inRange : GainVal → Bool
  | .zero => true
  | .db d => decide (-114 ≤ d) && decide (d ≤ 6)

/-- `factor` (42_dispatch_gain_mute.md R240): the multiplier a mixer applies for a gain, a real number. -/
noncomputable def GainVal.factor : GainVal → ℝ
  | .zero => 0
  | .db d => (10 : ℝ) ^ (((d : ℝ) + 6) / 20)

/-- What holds of the block in every reachable state, collected from the derived rules of 10_state.md and 40_bus_protocol.md. -/
structure Inv (s : State) : Prop where
  /-- the parameters meet the conditions of 00_scope.md R11 -/
  cfg_ok : s.cfg.ok = true
  /-- the device never drives the clock (R23) -/
  clock_released : s.sclOut = true
  /-- outside a session the session registers are clear (R147, R60) -/
  idle_clear : s.busState = .idle → s.bitIdx = some 7 ∧ s.acc = 0#8 ∧ s.addrStatus = .unresolved ∧
    s.subdest = .undefined ∧ s.pos = 0 ∧ s.cmd = .bad
  /-- in `Started` there is a bit index, and no bit at or below it is sampled yet (R27, R150) -/
  started_index : s.busState = .started → s.addrStatus ≠ .invalid ∧
    ∃ i, s.bitIdx = some i ∧ ∀ j : Nat, j ≤ i.val → s.acc.getLsbD j = false
  /-- between a completed byte and the end of its acknowledge cell the address is valid and `BIT_IDX` is -1 (R27) -/
  ack_valid : s.busState = .ack ∨ s.busState = .ack2 → s.addrStatus = .valid ∧ s.bitIdx = none
  /-- in `Ack2` the clock is high (R142) -/
  ack2_clock : s.busState = .ack2 → s.sclIn = true
  /-- in `Nak` no bit index is left (R27) -/
  nak_index : s.busState = .nak → s.bitIdx = none
  /-- an invalid address implies `Nak` (R28) -/
  invalid_nak : s.addrStatus = .invalid → s.busState = .nak
  /-- `POS` is 0, 1 or 2 in `data-read` (20_memory.md R75) -/
  read_pos : s.subdest = .dataRead → s.pos ≤ 2
  /-- the output gains follow the mute flag (R50) -/
  out_gain_left : s.outGainL = if s.muted then GainVal.zero else s.gainLL
  out_gain_right : s.outGainR = if s.muted then GainVal.zero else s.gainRR
  /-- gains are in range (R44) -/
  gain_range : s.gainLL.inRange = true ∧ s.gainRR.inRange = true
  /-- the ring fits its capacity (R45) -/
  ring_fits : s.ring.length ≤ s.cfg.ringCap
  /-- the sample buffer fits its capacity and the cursor is inside it (R47, R48) -/
  samples_fit : s.smp.length ≤ s.cfg.sampleCap
  cursor_inside : s.smpRd ≤ s.smp.length

/-- A run of operations, stopping at the first fault or refusal. -/
def runInstrs : List Instr → State → Result
  | [], s => .next s
  | i :: is, s =>
    match exec i s with
    | .next t => runInstrs is t
    | .fault r => .fault r
    | .refused r => .refused r

/-- A run of input events. -/
def runCalls (ks : List Call) (s : State) : Result := runInstrs (ks.map Call.toInstr) s

/-- A run of the line calls that clock bytes into the session, one byte after the other (30_encoding.md R130). -/
def runWire : List Byte → State → Result
  | [], s => .next s
  | b :: bs, s =>
    match runCalls (wireCalls s b) s with
    | .next t => runWire bs t
    | .fault r => .fault r
    | .refused r => .refused r

/-- The state elements only the pipeline and device reset write (43_decode_pipeline.md R260). -/
def SamePipeline (s t : State) : Prop :=
  t.frameCounter = s.frameCounter ∧ t.ring = s.ring ∧ t.frameBuffered = s.frameBuffered ∧ t.smp = s.smp ∧
  t.smpRd = s.smpRd ∧ t.demand = s.demand ∧ t.frameSync = s.frameSync ∧ t.outRate = s.outRate ∧
  t.decodeCalls = s.decodeCalls

/-- The state elements only the bus side and device reset write: lines, session, operand registers, payload, gains, mute. -/
def SameBusSide (s t : State) : Prop :=
  t.sclIn = s.sclIn ∧ t.sdaIn = s.sdaIn ∧ t.sclOut = s.sclOut ∧ t.sdaOut = s.sdaOut ∧ t.busState = s.busState ∧
  t.acc = s.acc ∧ t.bitIdx = s.bitIdx ∧ t.addrStatus = s.addrStatus ∧ t.subdest = s.subdest ∧ t.pos = s.pos ∧
  t.cmd = s.cmd ∧ t.adr = s.adr ∧ t.val = s.val ∧ t.count = s.count ∧ t.bank = s.bank ∧ t.payload = s.payload ∧
  t.gainLL = s.gainLL ∧ t.gainRR = s.gainRR ∧ t.muted = s.muted ∧ t.outGainL = s.outGainL ∧ t.outGainR = s.outGainR

/-- The calls of the bus master: the line drives and the line reads (40_bus_protocol.md R140). -/
def isLineCall : Call → Bool
  | .setClock _ => true
  | .setData _ => true
  | .readClock => true
  | .readData => true
  | .feedByte _ => false
  | .produce _ => false
  | .reset => false

/-- How many frames were decoded according to an event list: its `FrameSync(1)` entries (43_decode_pipeline.md R279). -/
def framesIn (es : List OutEvent) : Nat := (es.filter (fun e => e == .frameSync true)).length

end Sys2Proof.Machine
end

