-- ==== Sys2Proof/Certificates/Slice0/Obligations.lean ====
section
/-! DEFINITION. The statements about the block, from the numbered rules of spec/. Where a statement gives a whole next state by a
record update, every element the update does not name is unchanged: that is its frame. -/

open Sys2Proof Sys2Proof.Config Sys2Proof.Machine

/-! ### Stepping, decoding, encoding -/

/-- 00_scope.md R8 and R9, with the model's input list (the model's choice, assumption entries 4 and 5): a step runs the decoded
operation on the state whose input no longer holds it; with nothing presented the block waits; a byte that begins no row of the
table becomes the line calls that clock it. -/
def Obligations.StepRunsDecodedOperation : Prop :=
  (∀ (s : State) (item : Input) (rest : List Input) (i : Instr) (tail : List Byte),
    s.input = item :: rest → decodeInput s.cfg (byteFormat s) item = .ok (i, tail) →
    step s = exec i { s with input := if tail = [] then rest else .bytes tail :: rest }) ∧
  (∀ s : State, s.input = [] → step s = .next s) ∧
  (∀ (s : State) (b : Byte) (tail : List Byte) (rest : List Input) (e : DecodeError),
    s.input = .bytes (b :: tail) :: rest → decodeInput s.cfg (byteFormat s) (.bytes (b :: tail)) = .error e →
    step s = .next { s with
      input := (wireCalls s b).map Input.call ++ (if tail = [] then rest else .bytes tail :: rest) })

/-- 30_encoding.md R104, R105, R107, R108, R110, R111, R113: nine words written out from the encodings, for profile P0 (PRESUMED,
assumption entry 1). The meaning of the direction bit, and the layouts of write-register and write-memory, are the spec's own
decisions D7, D14, D15 (92_eei_decisions.md; assumption entries 10 and 11). -/
def Obligations.WrittenWordsDecode : Prop :=
  decodeBytes referenceProfile .address [0x3A#8] = .ok (.addrWrite 0x1D#7, []) ∧
  decodeBytes referenceProfile .address [0x3B#8] = .ok (.addrRead 0x1D#7, []) ∧
  decodeBytes referenceProfile .address [0x50#8] = .ok (.addrMismatch 0x50#8, []) ∧
  decodeBytes referenceProfile .selector [0x69#8] = .ok (.selDataRead, []) ∧
  decodeBytes referenceProfile .command [0x1F#8, 0xCB#8] = .ok (.run true 0xFCB#12, []) ∧
  decodeBytes referenceProfile .command [0x9F#8, 0xF7#8, 0x12#8, 0x34#8] = .ok (.wrreg 0xFF#8 0x7#4 0x1234#16, []) ∧
  decodeBytes referenceProfile .command [0xB0#8, 0x00#8, 0x01#8, 0x07#8, 0xF8#8, 0x12#8, 0x34#8, 0xE5#8] =
    .ok (.wrmem true 0x0#4 1#16 0x07F8#16 [⟨0x51234#20, 0xE#4⟩], []) ∧
  decodeBytes referenceProfile .command [0xF5#8] = .ok (.rdmem true 0x5#4, []) ∧
  decodeBytes referenceProfile .command [0x67#8] = .ok (.bad47 0x27#6, [])

/-- Every well-formed operation with a wire encoding is read back from its bytes, whatever follows them. -/
def Obligations.DecodeOfEncodeIsTheOperation : Prop :=
  ∀ (c : Params) (i : Instr) (f : ByteFormat) (rest : List Byte),
    c.ok = true → wellFormed c i = true → i.format = some f →
    decodeBytes c f (encode c i ++ rest) = .ok (i, rest)

/-- Whatever the decoder reads is well-formed, of the format it was read at, and its encoding is exactly the bytes consumed: no
bit of an encoding is dropped. -/
def Obligations.EncodeOfDecodeIsTheBytes : Prop :=
  ∀ (c : Params) (f : ByteFormat) (bs rest : List Byte) (i : Instr),
    decodeBytes c f bs = .ok (i, rest) →
    wellFormed c i = true ∧ i.format = some f ∧ encode c i ++ rest = bs

/-- 30_encoding.md R103, R105, R107, R111, R115: every byte is a row at the one-byte formats; a command is read exactly when as
many bytes are there as R107 gives its nibble. The count of write-memory is its second and third byte, high byte first, by R111,
which rests on the spec's own decision D15 (92_eei_decisions.md; assumption entry 10). That a command cut short is not read is how
the model's decoder stands to the session: its bytes run through their line calls instead (the model's choice, assumption
entry 5). -/
def Obligations.OnlyShortCommandsAreNotRead : Prop :=
  (∀ (c : Params) (f : ByteFormat) (b : Byte) (rest : List Byte), f ≠ .command →
    ∃ i, decodeBytes c f (b :: rest) = .ok (i, rest)) ∧
  (∀ (c : Params) (b : Byte) (rest : List Byte),
    (∃ i t, decodeBytes c .command (b :: rest) = .ok (i, t)) ↔
      ((b.toNat / 16 ≤ 1 → 1 ≤ rest.length) ∧
       (b.toNat / 16 = 9 → 3 ≤ rest.length) ∧
       (b.toNat / 16 = 10 ∨ b.toNat / 16 = 11 →
         ∃ n1 n0 : Byte, rest[0]? = some n1 ∧ rest[1]? = some n0 ∧
           4 + 3 * (256 * n1.toNat + n0.toNat) ≤ rest.length)))

/-! ### The invariant and whole-machine rules -/

/-- 60_exceptions.md R300 with the derived invariants of 10_state.md: from every state that meets the invariant a step gives a
next state that meets it; nothing stops the block. -/
def Obligations.StepKeepsTheInvariant : Prop :=
  ∀ s : State, Inv s → ∃ t, step s = .next t ∧ Inv t

/-- The reset state meets the invariant, for every admissible parameters.
Rests on the spec's own decisions D6, D20 (92_eei_decisions.md). -/
def Obligations.ResetMeetsTheInvariant : Prop :=
  (∀ c : Params, c.ok = true → Inv (State.resetWith c)) ∧ Inv State.reset

/-- 00_scope.md R11, 10_state.md R23: no step writes the parameters, and the clock output stays released.
Rests on the spec's own decision D3 (92_eei_decisions.md). -/
def Obligations.StepKeepsParametersAndClockOutput : Prop :=
  ∀ s t : State, step s = .next t → t.cfg = s.cfg ∧ (s.sclOut = true → t.sclOut = true)

/-- 00_scope.md R10: a step only appends to the event trace. -/
def Obligations.StepOnlyAppendsEvents : Prop :=
  ∀ s t : State, step s = .next t → ∃ es : List OutEvent, t.trace = s.trace ++ es

/-- 43_decode_pipeline.md R260, 20_memory.md R89: a line call or a wire byte writes no pipeline state; a pipeline call writes no
bus-side state. -/
def Obligations.BusAndPipelineWriteApart : Prop :=
  (∀ (s t : State) (k : Call) (rest : List Input), s.input = .call k :: rest → isLineCall k = true →
    step s = .next t → SamePipeline s t) ∧
  (∀ (s t : State) (bs : List Byte) (rest : List Input), s.input = .bytes bs :: rest →
    step s = .next t → SamePipeline s t) ∧
  (∀ (s t : State) (b : Byte) (rest : List Input), s.input = .call (.feedByte b) :: rest →
    step s = .next t → SameBusSide s t) ∧
  (∀ (s t : State) (n : Nat) (rest : List Input), s.input = .call (.produce n) :: rest →
    step s = .next t → SameBusSide s t)

/-- 10_state.md R36, 70_reset_and_hazards.md R351: the payload is a snapshot. A step leaves it, loads it from the frame counter
of that instant, or clears it by device reset.
Rests on the spec's own decisions D8, D10 (92_eei_decisions.md). -/
def Obligations.PayloadIsASnapshot : Prop :=
  ∀ s t : State, step s = .next t →
    t.payload = s.payload ∨
    t.payload = ((s.frameCounter >>> 8) &&& 0x00FF00FF#32) ||| ((s.frameCounter <<< 8) &&& 0xFF00FF00#32) ∨
    (s.input.head? = some (.call .reset) ∧ t.payload = 0#32)

/-- 70_reset_and_hazards.md R350, under `SDA_RELEASE = literal`: a data output that is low goes high only in `data-read` or by
device reset.
Rests on the spec's own decision D4 (92_eei_decisions.md).
In a `data-read` bit cell the payload bit is decision D11. -/
def Obligations.LowDataLineRisesOnlyInDataReadOrReset : Prop :=
  ∀ s t : State, s.cfg.sdaRelease = .literal → s.sdaOut = false → step s = .next t → t.sdaOut = true →
    s.subdest = .dataRead ∨ s.input.head? = some (.call .reset)

/-! ### Wire bytes are their line calls -/

/-- 40_bus_protocol.md R163, R148: the line calls that clock a byte at a byte boundary deliver exactly that byte: the machine is
where the eight bit cells and the completion of the byte leave it. -/
def Obligations.ClockedByteIsDelivered : Prop :=
  ∀ (s : State) (b : Byte), atByteBoundary s = true → s.addrStatus ≠ .invalid →
    runCalls (wireCalls s b) s = .next (byteComplete (clockIn b s))

/-- 30_encoding.md R100, 40_bus_protocol.md R163: clocking the encoding of an operation in, line call by line call, does what
the operation's meaning says, in any session that stands at its format. -/
def Obligations.ClockedEncodingRunsTheOperation : Prop :=
  ∀ (s : State) (i : Instr) (f : ByteFormat), wellFormed s.cfg i = true → i.format = some f →
    byteFormat s = some f → runWire (encode s.cfg i) s = exec i s

/-- 40_bus_protocol.md R159, 60_exceptions.md R304: bytes clocked in `Nak` change nothing but the two input levels. -/
def Obligations.NakConsumesNoByte : Prop :=
  ∀ (s : State) (bs : List Byte) (b : Byte), s.busState = .nak →
    runWire (bs ++ [b]) s = .next { s with sclIn := false, sdaIn := b.getLsbD 0 }

/-! ### Line calls -/

/-- 40_bus_protocol.md R141 (the spec's decision D2), R143: a call with the stored level has no effect; a data edge while the
clock is low only updates `SDA_IN`. -/
def Obligations.LineCallsWithoutABusEvent : Prop :=
  ∀ s : State, exec (.setClock s.sclIn) s = .next s ∧ exec (.setData s.sdaIn) s = .next s ∧
    (s.sclIn = false → ∀ l : Bool, exec (.setData l) s = .next { s with sdaIn := l })

/-- 40_bus_protocol.md R142, R155 to R157: the clock edges that run no bit cell, rising and falling. -/
def Obligations.ClockEdgesOutsideBitCells : Prop :=
  ∀ s : State,
    (s.sclIn = false → s.busState = .ack → exec (.setClock true) s = .next { s with sclIn := true, busState := .ack2 }) ∧
    (s.sclIn = false → s.busState = .idle ∨ s.busState = .ack2 ∨ s.busState = .nak →
      exec (.setClock true) s = .next { s with sclIn := true }) ∧
    (s.sclIn = true → s.busState = .ack2 → exec (.setClock false) s =
      .next { s with sclIn := false, busState := .started, bitIdx := some 7, acc := 0#8 }) ∧
    (s.sclIn = true → s.busState ≠ .ack2 → exec (.setClock false) s = .next { s with sclIn := false })

/-- 40_bus_protocol.md R155, R157: the acknowledge cell ends `Ack` in `Started`, at the first bit of the next byte, and does not
release the data line. -/
def Obligations.AckCellReturnsToStarted : Prop :=
  ∀ s : State,
    (s.busState = .ack ∨ s.busState = .ack2 →
      exec .ackcell s = .next { s with busState := .started, bitIdx := some 7, acc := 0#8 }) ∧
    (s.busState ≠ .ack ∧ s.busState ≠ .ack2 → exec .ackcell s = .next s)

/-- 40_bus_protocol.md R146: START, from any bus state; it writes nothing else and emits nothing. -/
def Obligations.StartFromAnyState : Prop :=
  (∀ s : State, exec .start s =
    .next { s with busState := .started, bitIdx := some 7, acc := 0#8, addrStatus := .unresolved }) ∧
  (∀ s : State, s.sclIn = true → s.sdaIn = true → exec (.setData false) s =
    .next { s with
      sdaIn := false, busState := .started, bitIdx := some 7, acc := 0#8, addrStatus := .unresolved })

/-- 40_bus_protocol.md R147 and R160: STOP, as the row and as a data rise with the clock high, from any bus state; right after a
START a data rise is no STOP (the spec's decision D5).
Rests on the spec's own decisions D4, D6 (92_eei_decisions.md). -/
def Obligations.StopEndsTheSession : Prop :=
  (∀ s : State, exec .stop s = .next { s with
    trace := s.trace ++ [.transactionEnded]
    sdaOut := if s.cfg.sdaRelease = .onNakIdle then true else s.sdaOut
    busState := .idle, addrStatus := .unresolved, acc := 0#8, bitIdx := some 7
    subdest := .undefined, pos := 0, cmd := .bad }) ∧
  (∀ s : State, s.sclIn = true → s.sdaIn = false →
    ¬(s.busState = .started ∧ s.bitIdx = some 7 ∧ s.addrStatus = .unresolved) →
    exec (.setData true) s = .next { s with
      sdaIn := true
      trace := s.trace ++ [.transactionEnded]
      sdaOut := if s.cfg.sdaRelease = .onNakIdle then true else s.sdaOut
      busState := .idle, addrStatus := .unresolved, acc := 0#8, bitIdx := some 7
      subdest := .undefined, pos := 0, cmd := .bad }) ∧
  (∀ s : State, s.sclIn = true → s.sdaIn = false →
    s.busState = .started ∧ s.bitIdx = some 7 ∧ s.addrStatus = .unresolved →
    exec (.setData true) s = .next { s with sdaIn := true })

/-- 40_bus_protocol.md R150 to R152: a bit cell before the eighth samples the externally driven level at `BIT_IDX`, drives the
payload bit or the ACK level, and counts; as the row and as a clock rise in `Started`.
Rests on the spec's own decision D11 (92_eei_decisions.md).
A payload offset past bit 31 reads 0, and the row is taken in every bus state (the model's choices, assumption entries 9 and 12). -/
def Obligations.BitCellSamplesDrivesAndCounts : Prop :=
  ∀ (s : State) (i : Fin 8), s.bitIdx = some i → (hi : 0 < i.val) →
    ∃ acc' : Byte,
      (∀ j : Nat, j < 8 → acc'.getLsbD j = if j = i.val then s.sdaIn else s.acc.getLsbD j) ∧
      exec .bitcell s = .next { s with
        acc := acc'
        sdaOut := if s.subdest = .dataRead then s.payload.getLsbD (i.val + 8 * s.pos) else false
        bitIdx := some ⟨i.val - 1, by omega⟩ } ∧
      (s.busState = .started → s.sclIn = false → exec (.setClock true) s = .next { s with
        sclIn := true
        acc := acc'
        sdaOut := if s.subdest = .dataRead then s.payload.getLsbD (i.val + 8 * s.pos) else false
        bitIdx := some ⟨i.val - 1, by omega⟩ })

/-- 40_bus_protocol.md R152, R164: the eighth bit cell completes the byte whose lowest bit it samples, driving from the old
sub-destination and position; here the byte of a `control` session, whose event shows the value delivered (R183).
Rests on the spec's own decision D12 (92_eei_decisions.md). -/
def Obligations.EighthBitCellHandsTheByteOver : Prop :=
  ∀ (s : State), s.bitIdx = some 0 → s.addrStatus = .valid → s.subdest = .control →
    ∃ b : Byte,
      (∀ j : Nat, j < 8 → b.getLsbD j = if j = 0 then s.sdaIn else s.acc.getLsbD j) ∧
      exec .bitcell s = .next { s with
        acc := b, sdaOut := false, bitIdx := none, busState := .ack, trace := s.trace ++ [.controlByte b] } ∧
      (s.busState = .started → s.sclIn = false → exec (.setClock true) s = .next { s with
        sclIn := true
        acc := b, sdaOut := false, bitIdx := none, busState := .ack, trace := s.trace ++ [.controlByte b] })

/-- 10_state.md R27 and assumption entry 8 (the model's choice): a bit cell without a bit index stops the model. By the invariant
there is an index wherever the spec has a bit cell, in `Started`. -/
def Obligations.BitCellWithoutIndexStops : Prop :=
  (∀ s : State, s.bitIdx = none → exec .bitcell s = .fault .bitIndexSpent) ∧
  (∀ s : State, Inv s → s.busState = .started → s.bitIdx ≠ none)

/-- 40_bus_protocol.md R144: the clock read. -/
def Obligations.ReadClockReturnsTheWiredAnd : Prop :=
  ∀ s : State, exec .readClock s = .next { s with ret := .level (s.sclIn && s.sclOut) } ∧
    (s.sclOut = true → exec .readClock s = .next { s with ret := .level s.sclIn })

/-- 40_bus_protocol.md R145: the data read. -/
def Obligations.ReadDataReturnsTheWiredAnd : Prop :=
  ∀ s : State, exec .readData s = .next { s with ret := .level (s.sdaIn && s.sdaOut) }

/-- 70_reset_and_hazards.md R340: device reset, whatever the state before; the parameters, the trace, the calls to come and the
decoder's call number are not of the record (assumption entry 16).
Rests on the spec's own decisions D6, D20 (92_eei_decisions.md). -/
def Obligations.ResetClearsTheRecord : Prop :=
  ∀ s : State, exec .reset s = .next {
    sclIn := true, sdaIn := true, sclOut := true, sdaOut := true
    busState := .idle, acc := 0#8, bitIdx := some 7, addrStatus := .unresolved, subdest := .undefined, pos := 0, cmd := .bad
    adr := 0#16, val := 0#20, count := 0#16, bank := false, payload := 0#32
    gainLL := .zero, gainRR := .zero, muted := false, frameCounter := 0#32
    ring := [], frameBuffered := false, smp := [], smpRd := 0
    demand := true, frameSync := false, outRate := s.cfg.rateReset, outGainL := .zero, outGainR := .zero
    cfg := s.cfg, input := s.input, trace := s.trace, ret := s.ret, decodeCalls := s.decodeCalls }

/-! ### Address and selector bytes, sub-destinations -/

/-- 40_bus_protocol.md R153, matching branch, with the eight bit cells that precede it; the data output is what the last of them
drove (R151). Rests on the spec's own decisions D4, D7, D8, D11 (92_eei_decisions.md). The row is taken in every state, also where
no address byte is due (the model's choice, assumption entry 12), and a payload offset past bit 31 reads 0 (the model's choice,
assumption entry 9). -/
def Obligations.MatchingAddressOpensTheSession : Prop :=
  ∀ s : State,
    exec (.addrWrite s.cfg.devAddr) s = .next { s with
      sclIn := false, sdaIn := false
      sdaOut := if s.subdest = .dataRead then s.payload.getLsbD (8 * s.pos) else false
      acc := 0#8, bitIdx := none, busState := .ack, addrStatus := .valid, subdest := .undefined, pos := 0 } ∧
    exec (.addrRead s.cfg.devAddr) s = .next { s with
      sclIn := false, sdaIn := true
      sdaOut := if s.subdest = .dataRead then s.payload.getLsbD (8 * s.pos) else false
      acc := 0#8, bitIdx := none, busState := .ack, addrStatus := .valid, subdest := .dataRead, pos := 0 }

/-- 40_bus_protocol.md R153, mismatch branch, with the eight bit cells that precede it: error class E4 of 60_exceptions.md R304. The
data output is what the last cell drove (R151), or released (R160). Rests on the spec's own decisions D4, D11
(92_eei_decisions.md; assumption entry 10). The row is taken in every state, also where no address byte is due (the model's choice,
assumption entry 12), and a payload offset past bit 31 reads 0 (the model's choice, assumption entry 9). -/
def Obligations.MismatchingAddressNaks : Prop :=
  ∀ (s : State) (b : Byte), b.toNat / 2 ≠ s.cfg.devAddr.toNat →
    exec (.addrMismatch b) s = .next { s with
      sclIn := false, sdaIn := b.getLsbD 0
      sdaOut := if s.cfg.sdaRelease = .onNakIdle then true
        else if s.subdest = .dataRead then s.payload.getLsbD (8 * s.pos) else false
      acc := b, bitIdx := none, busState := .nak, addrStatus := .invalid }

/-- 41_command_interpreter.md R181, R182: the four selections; `SEL_DATA_READ` also loads the payload (R200). The selector's
bit cells drive low, since the sub-destination is undefined.
Rests on the spec's own decisions D9, D10 (92_eei_decisions.md).
The row runs from its first bit cell to its completion (the model's choice, assumption entry 12). -/
def Obligations.SelectorBytesSelect : Prop :=
  ∀ s : State, s.cfg.ok = true → s.subdest = .undefined →
    exec .selDataWrite s = .next { s with
      sclIn := false, sdaIn := s.cfg.selDataWrite.getLsbD 0, sdaOut := false, acc := s.cfg.selDataWrite, bitIdx := none
      busState := .ack, subdest := .dataWrite, pos := 0 } ∧
    exec .selDataRead s = .next { s with
      sclIn := false, sdaIn := s.cfg.selDataRead.getLsbD 0, sdaOut := false, acc := s.cfg.selDataRead, bitIdx := none
      busState := .ack, subdest := .dataRead, pos := 0
      payload := ((s.frameCounter >>> 8) &&& 0x00FF00FF#32) ||| ((s.frameCounter <<< 8) &&& 0xFF00FF00#32) } ∧
    exec .selControl s = .next { s with
      sclIn := false, sdaIn := s.cfg.selControl.getLsbD 0, sdaOut := false, acc := s.cfg.selControl, bitIdx := none
      busState := .ack, subdest := .control, pos := 0 } ∧
    (∀ b : Byte, b ≠ s.cfg.selDataWrite → b ≠ s.cfg.selDataRead → b ≠ s.cfg.selControl →
      exec (.selBad b) s = .next { s with
        sclIn := false, sdaIn := b.getLsbD 0, sdaOut := false, acc := b, bitIdx := none
        busState := .ack, subdest := .bad, pos := 0 })

/-- 41_command_interpreter.md R182: bytes of the `bad` sub-destination are acknowledged and discarded. The next state is that of the
row as the model takes it, from the first bit cell to the completion (40_bus_protocol.md R148, R151, R154; assumption entry 12). -/
def Obligations.BadByteIsDiscarded : Prop :=
  ∀ (s : State) (b : Byte), s.subdest = .bad → exec (.badByte b) s = .next { s with
    sclIn := false, sdaIn := b.getLsbD 0, sdaOut := false, acc := b, bitIdx := none, busState := .ack }

/-- 41_command_interpreter.md R183: bytes of the `control` sub-destination are reported.
Rests on the spec's own decision D12 (92_eei_decisions.md).
The row runs from its first bit cell to its completion (the model's choice, assumption entry 12). -/
def Obligations.ControlByteIsReported : Prop :=
  ∀ (s : State) (b : Byte), s.subdest = .control → exec (.controlByte b) s = .next { s with
    sclIn := false, sdaIn := b.getLsbD 0, sdaOut := false, acc := b, bitIdx := none, busState := .ack
    trace := s.trace ++ [.controlByte b] }

/-- 41_command_interpreter.md R184: two read groups are accepted, the third is an overrun (error class E1, R301). At the forced
NAK the data line is as 40_bus_protocol.md R160 has it: released under `SDA_RELEASE = on_nak_idle` (assumption entry 10). Rests on
the spec's own decisions D4, D11 (92_eei_decisions.md).
The row runs from its first bit cell to its completion (the model's choice, assumption entry 12). -/
def Obligations.ReadGroupsAreCounted : Prop :=
  ∀ (s : State) (b : Byte), s.subdest = .dataRead →
    (s.pos < 2 → exec (.dataReadGroup b) s = .next { s with
      sclIn := false, sdaIn := b.getLsbD 0, sdaOut := s.payload.getLsbD (8 * s.pos), acc := b, bitIdx := none
      busState := .ack, pos := s.pos + 1 }) ∧
    (s.pos = 2 → exec (.dataReadGroup b) s = .next { s with
      sclIn := false, sdaIn := b.getLsbD 0
      sdaOut := if s.cfg.sdaRelease = .onNakIdle then true else s.payload.getLsbD 16
      acc := b, bitIdx := none, busState := .nak })

/-- 41_command_interpreter.md R200: the transposition, as arithmetic, and that it is its own inverse.
Rests on the spec's own decision D10 (92_eei_decisions.md). -/
def Obligations.TransposeSwapsBytesOfHalves : Prop :=
  ∀ f : Quad,
    transpose f = ((f >>> 8) &&& 0x00FF00FF#32) ||| ((f <<< 8) &&& 0xFF00FF00#32) ∧
    transpose (transpose f) = f

/-! ### Commands -/

/-- 41_command_interpreter.md R188: RUN at position 0 of a data-write session.
Rests on the spec's own decision D13 (92_eei_decisions.md).
The row runs from its first bit cell to its completion (the model's choice, assumption entry 12). -/
def Obligations.RunReportsTheProgramAddress : Prop :=
  ∀ (s : State) (x : Bool) (a : BitVec 12), s.busState ≠ .nak → s.subdest = .dataWrite → s.pos = 0 →
    exec (.run x a) s = .next { s with
      sclIn := false, sdaIn := a.getLsbD 0, sdaOut := false, acc := a.extractLsb' 0 8, bitIdx := none, busState := .ack
      cmd := .runProgram, pos := 2, adr := a.setWidth 16
      trace := s.trace ++ [.runProgram (a.setWidth 16)] }

/-- 41_command_interpreter.md R190 with 42_dispatch_gain_mute.md R231, R237, R238: WRREG at position 0 of a data-write
session.
Rests on the spec's own decisions D14, D18 (92_eei_decisions.md).
The row runs from its first bit cell to its completion (the model's choice, assumption entry 12). -/
def Obligations.WriteRegisterDispatches : Prop :=
  ∀ (s : State) (r : BitVec 8) (x : BitVec 4) (v : Half), s.busState ≠ .nak → s.subdest = .dataWrite → s.pos = 0 →
    exec (.wrreg r x v) s = .next { s with
      sclIn := false, sdaIn := v.getLsbD 0, sdaOut := false, acc := v.extractLsb' 0 8, bitIdx := none, busState := .ack
      cmd := .writeRegister, pos := 4, adr := r.setWidth 16, val := v.setWidth 20
      trace := s.trace ++ [.regWrite r v]
      muted := if r = s.cfg.regMute then decide (v = 1#16) else s.muted
      outGainL := if r = s.cfg.regMute then (if v = 1#16 then .zero else s.gainLL) else s.outGainL
      outGainR := if r = s.cfg.regMute then (if v = 1#16 then .zero else s.gainRR) else s.outGainR }

/-- 41_command_interpreter.md R192 with 20_memory.md R85 and 42_dispatch_gain_mute.md R232 to R236: WRMEM at position 0 of a
data-write session writes its words in order at consecutive addresses; what a gain location keeps is the last word written to
it.
Rests on the spec's own decision D15 (92_eei_decisions.md).
The row runs from its first bit cell to its completion (the model's choice, assumption entry 12). -/
def Obligations.WriteMemoryDispatchesEveryWord : Prop :=
  ∀ (s : State) (bank : Bool) (x : BitVec 4) (n a : Half) (ws : List WireWord),
    s.cfg.ok = true → s.busState ≠ .nak → s.subdest = .dataWrite → s.pos = 0 → ws.length = n.toNat →
    let lastAt (loc : MemLoc) (g : GainVal) : GainVal :=
      ws.zipIdx.foldl (fun g p => if MemLoc.mk bank (a + BitVec.ofNat 16 p.2) = loc then gainOf p.1.w else g) g
    ∃ t : State, exec (.wrmem bank x n a ws) s = .next t ∧
      t.trace = s.trace ++ ws.zipIdx.map (fun p => .memWrite bank (a + BitVec.ofNat 16 p.2) p.1.w) ∧
      t = { s with
        sclIn := false, sdaIn := t.sdaIn, sdaOut := false, acc := t.acc, bitIdx := none, busState := .ack
        cmd := .writeMemory, pos := 5 + 3 * n.toNat, bank := bank, count := n, adr := a
        val := (ws.getLast?.map WireWord.w).getD s.val
        trace := t.trace
        gainLL := lastAt s.cfg.memGainLL s.gainLL
        gainRR := lastAt s.cfg.memGainRR s.gainRR
        outGainL := if s.muted then s.outGainL else lastAt s.cfg.memGainLL s.outGainL
        outGainR := if s.muted then s.outGainR else lastAt s.cfg.memGainRR s.outGainR } ∧
      some t.acc = (encode s.cfg (.wrmem bank x n a ws)).getLast? ∧ t.sdaIn = t.acc.getLsbD 0

/-- 41_command_interpreter.md R189: RDCTL at position 0 of a data-write session.
The row runs from its first bit cell to its completion (the model's choice, assumption entry 12). -/
def Obligations.ReadControlIsReported : Prop :=
  ∀ (s : State) (x : BitVec 4), s.busState ≠ .nak → s.subdest = .dataWrite → s.pos = 0 →
    exec (.rdctl x) s = .next { s with
      sclIn := false, sdaIn := x.getLsbD 0, sdaOut := false, acc := 0x3#4 ++ x, bitIdx := none, busState := .ack
      cmd := .readControl, pos := 1, trace := s.trace ++ [.readControl] }

/-- 41_command_interpreter.md R194: RDREG at position 0 of a data-write session.
The row runs from its first bit cell to its completion (the model's choice, assumption entry 12). -/
def Obligations.ReadRegisterIsReported : Prop :=
  ∀ (s : State) (x : BitVec 4), s.busState ≠ .nak → s.subdest = .dataWrite → s.pos = 0 →
    exec (.rdreg x) s = .next { s with
      sclIn := false, sdaIn := x.getLsbD 0, sdaOut := false, acc := 0xD#4 ++ x, bitIdx := none, busState := .ack
      cmd := .readRegister, pos := 1, trace := s.trace ++ [.readRegister] }

/-- 41_command_interpreter.md R196: RDMEM at position 0 of a data-write session.
The row runs from its first bit cell to its completion (the model's choice, assumption entry 12). -/
def Obligations.ReadMemoryIsReported : Prop :=
  ∀ (s : State) (bank : Bool) (x : BitVec 4), s.busState ≠ .nak → s.subdest = .dataWrite → s.pos = 0 →
    exec (.rdmem bank x) s = .next { s with
      sclIn := false, sdaIn := x.getLsbD 0, sdaOut := false, acc := 0b111#3 ++ BitVec.ofBool bank ++ x, bitIdx := none
      busState := .ack, cmd := .readMemory, pos := 1, bank := bank, trace := s.trace ++ [.readMemory bank] }

/-- 41_command_interpreter.md R197: the reserved command bytes select the bad command, are acknowledged and counted, and change
and emit nothing else (error class E2, 60_exceptions.md R302).
The row runs from its first bit cell to its completion (the model's choice, assumption entry 12). -/
def Obligations.ReservedCommandsAreCountedOnly : Prop :=
  ∀ (s : State), s.busState ≠ .nak → s.subdest = .dataWrite → s.pos = 0 →
    (∀ x : BitVec 4, exec (.bad2 x) s = .next { s with
      sclIn := false, sdaIn := x.getLsbD 0, sdaOut := false, acc := 0x2#4 ++ x, bitIdx := none, busState := .ack
      cmd := .bad, pos := 1 }) ∧
    (∀ x : BitVec 6, exec (.bad47 x) s = .next { s with
      sclIn := false, sdaIn := x.getLsbD 0, sdaOut := false, acc := 0x1#2 ++ x, bitIdx := none, busState := .ack
      cmd := .bad, pos := 1 }) ∧
    (∀ x : BitVec 4, exec (.bad8 x) s = .next { s with
      sclIn := false, sdaIn := x.getLsbD 0, sdaOut := false, acc := 0x8#4 ++ x, bitIdx := none, busState := .ack
      cmd := .bad, pos := 1 }) ∧
    (∀ x : BitVec 4, exec (.badC x) s = .next { s with
      sclIn := false, sdaIn := x.getLsbD 0, sdaOut := false, acc := 0xC#4 ++ x, bitIdx := none, busState := .ack
      cmd := .bad, pos := 1 })

/-- 41_command_interpreter.md R197, R198: bytes after a complete RUN, RDCTL, RDREG or RDMEM, and after a bad command byte, are
acknowledged, counted and otherwise ignored.
Rests on the spec's own decisions D13, D16 (92_eei_decisions.md). -/
def Obligations.SurplusBytesAreIgnored : Prop :=
  ∀ (s : State) (b : Byte), atByteBoundary s = true → s.addrStatus = .valid → s.subdest = .dataWrite →
    (s.cmd = .runProgram ∧ 2 ≤ s.pos) ∨
      ((s.cmd = .readControl ∨ s.cmd = .readRegister ∨ s.cmd = .readMemory ∨ s.cmd = .bad) ∧ 1 ≤ s.pos) →
    runWire [b] s = .next { s with
      sclIn := false, sdaIn := b.getLsbD 0, sdaOut := false, acc := b, bitIdx := none, busState := .ack
      pos := s.pos + 1 }

/-- 41_command_interpreter.md R190, R192, 60_exceptions.md R301, 40_bus_protocol.md R158: a fifth byte of write-register, and a
byte of a memory word whose index is not below the count, force the NAK and do nothing else; `POS` is not incremented.
Rests on the spec's own decisions D4, D14, D15 (92_eei_decisions.md). -/
def Obligations.OverrunsForceNak : Prop :=
  ∀ (s : State) (b : Byte), atByteBoundary s = true → s.addrStatus = .valid → s.subdest = .dataWrite →
    (s.cmd = .writeRegister ∧ 4 ≤ s.pos) ∨
      (s.cmd = .writeMemory ∧ 5 ≤ s.pos ∧ s.count.toNat ≤ (s.pos - 5) / 3) →
    runWire [b] s = .next { s with
      sclIn := false, sdaIn := b.getLsbD 0, acc := b, bitIdx := none, busState := .nak
      sdaOut := if s.cfg.sdaRelease = .onNakIdle then true else false }

/-! ### Dispatches, gains, mute -/

/-- 42_dispatch_gain_mute.md R231, R237, R238: a register write is an event, and at the mute register sets or clears the mute
flag, silencing or restoring the outputs.
Rests on the spec's own decision D18 (92_eei_decisions.md). -/
def Obligations.RegisterWriteEffect : Prop :=
  ∀ (s : State) (a : BitVec 8) (v : Half),
    (a ≠ s.cfg.regMute → exec (.regWrite a v) s = .next { s with trace := s.trace ++ [.regWrite a v] }) ∧
    (a = s.cfg.regMute → v = 1#16 → exec (.regWrite a v) s = .next { s with
      trace := s.trace ++ [.regWrite a v], muted := true, outGainL := .zero, outGainR := .zero }) ∧
    (a = s.cfg.regMute → v ≠ 1#16 → exec (.regWrite a v) s = .next { s with
      trace := s.trace ++ [.regWrite a v], muted := false, outGainL := s.gainLL, outGainR := s.gainRR })

/-- 42_dispatch_gain_mute.md R232, R234 to R236, R238: a memory write is an event, and at a channel's gain location recomputes
that channel's gain and, unless muted, its output. -/
def Obligations.MemoryWriteEffect : Prop :=
  ∀ (s : State) (bank : Bool) (a : Half) (v : MemWord), s.cfg.ok = true →
    (s.cfg.memGainLL = ⟨bank, a⟩ → exec (.memWrite bank a v) s = .next { s with
      trace := s.trace ++ [.memWrite bank a v], gainLL := gainOf v
      outGainL := if s.muted then s.outGainL else gainOf v }) ∧
    (s.cfg.memGainRR = ⟨bank, a⟩ → exec (.memWrite bank a v) s = .next { s with
      trace := s.trace ++ [.memWrite bank a v], gainRR := gainOf v
      outGainR := if s.muted then s.outGainR else gainOf v }) ∧
    (s.cfg.memGainLL ≠ ⟨bank, a⟩ → s.cfg.memGainRR ≠ ⟨bank, a⟩ →
      exec (.memWrite bank a v) s = .next { s with trace := s.trace ++ [.memWrite bank a v] })

/-- 42_dispatch_gain_mute.md R237: whatever memory writes happen while muted, the outputs stay silent, and clearing the mute
gives the last computed gains of the channels.
Rests on the spec's own decision D18 (92_eei_decisions.md). -/
def Obligations.UnmuteRestoresTheGains : Prop :=
  ∀ (s : State) (ws : List (MemLoc × MemWord)) (v : Half), v ≠ 1#16 →
    ∃ t u : State,
      runInstrs (.regWrite s.cfg.regMute 1#16 :: ws.map (fun p => .memWrite p.1.bank p.1.addr p.2)) s = .next t ∧
      t.muted = true ∧ t.outGainL = .zero ∧ t.outGainR = .zero ∧
      exec (.regWrite s.cfg.regMute v) t = .next u ∧
      u.muted = false ∧ u.outGainL = t.gainLL ∧ u.outGainR = t.gainRR ∧ u.gainLL = t.gainLL ∧ u.gainRR = t.gainRR

/-- 42_dispatch_gain_mute.md R239, R240: the gain of a nonzero raw value is the integer nearest to
`20 * log10((0x100000 - raw) / 0x80000)`, over the reals, and raw 0 is silence; the factor of a gain is `10^((db + 6)/20)`, of
silence 0.
Rests on the spec's own decision D19 (92_eei_decisions.md). -/
def Obligations.GainIsTheRoundedDecibel : Prop :=
  gainOf 0#20 = .zero ∧ GainVal.zero.factor = 0 ∧
  ∀ raw : MemWord, raw ≠ 0#20 →
    let db : Int := round (20 * Real.logb 10 (((0x100000 : ℝ) - (raw.toNat : ℝ)) / (0x80000 : ℝ)))
    gainOf raw = .db db ∧ (gainOf raw).factor = (10 : ℝ) ^ (((db : ℝ) + 6) / 20)

/-- 42_dispatch_gain_mute.md R241, the general law in whole numbers: with `x = 0x100000 - raw`,
`524288^40 * 10^(2d-1) <= x^40 < 524288^40 * 10^(2d+1)`, both sides multiplied by `10^229`; and the range of R239. -/
def Obligations.GainTableMeetsTheDecibelLaw : Prop :=
  ∀ raw : MemWord, raw ≠ 0#20 →
    -114 ≤ gainToDb raw ∧ gainToDb raw ≤ 6 ∧
    524288 ^ 40 * 10 ^ (2 * gainToDb raw + 228).toNat ≤ (0x100000 - raw.toNat) ^ 40 * 10 ^ 229 ∧
    (0x100000 - raw.toNat) ^ 40 * 10 ^ 229 < 524288 ^ 40 * 10 ^ (2 * gainToDb raw + 230).toNat

/-! ### The pipeline -/

/-- 43_decode_pipeline.md R264 to R266: FeedByte, with the block's frame finder. -/
def Obligations.FeedByteResult : Prop :=
  ∀ (s : State) (b : Byte),
    let ring' := (if s.ring.length = s.cfg.ringCap then s.ring.tail else s.ring) ++ [b]
    let found := frameFound ring'
    let buffered' := if s.frameBuffered then true else decide (found.2 ≠ 0 ∧ found.1 + found.2 < ring'.length)
    let demand' := decide (buffered' = false ∨ ring'.length < s.cfg.ringCap)
    exec (.feedByte b) s = .next { s with
      ring := ring', frameBuffered := buffered', demand := demand', trace := s.trace ++ [.demand demand'] }

/-- 43_decode_pipeline.md R280 (c), 70_reset_and_hazards.md R354: with a frame buffered and the ring full, every further byte
leaves the ring full, the flag set and demand low, and emits `Demand(0)`. -/
def Obligations.FeedingAFullRingKeepsDemandLow : Prop :=
  ∀ (s : State) (bs : List Byte), s.cfg.ok = true → s.frameBuffered = true → s.ring.length = s.cfg.ringCap → bs ≠ [] →
    ∃ t : State, runInstrs (bs.map Instr.feedByte) s = .next t ∧
      t.ring = (s.ring ++ bs).drop bs.length ∧ t.frameBuffered = true ∧ t.demand = false ∧
      t.trace = s.trace ++ List.replicate bs.length (.demand false)

/-- 43_decode_pipeline.md R267 to R270, R272: Fill by case, for any oracles: no frame buffered; the decoder gives no samples (error
class E3 of 60_exceptions.md R303); the decoder gives samples. The row runs it with the block's oracles.
Rests on the spec's own decisions D23, D24, D26 (92_eei_decisions.md). -/
def Obligations.FillByCase : Prop :=
  (∀ s : State, exec .fill s = .next (fill (oracles s.cfg.sampleCap) s)) ∧
  ∀ (o : Oracles) (s : State),
    (s.frameBuffered = false → fill o s = { s with
      frameSync := false, demand := true, trace := s.trace ++ [.frameSync false, .demand true] }) ∧
    (s.frameBuffered = true → (o.decode s.decodeCalls s.ring).samples = [] →
      fill o s = { s with
        frameSync := false, trace := s.trace ++ [.frameSync false], decodeCalls := s.decodeCalls + 1
        ring := [], smp := [], smpRd := 0, frameBuffered := false, frameCounter := 0#32 }) ∧
    (∀ d : Decoded, s.frameBuffered = true → o.decode s.decodeCalls s.ring = d → d.samples ≠ [] →
      fill o s = { s with
        trace := s.trace ++ [.frameSync false, .frameSync true, .demand true]
        frameSync := true, demand := true, decodeCalls := s.decodeCalls + 1
        smp := d.samples, smpRd := 0, ring := s.ring.drop d.consumed, outRate := d.rate
        frameCounter := s.frameCounter + 1#32, frameBuffered := false })

/-- 43_decode_pipeline.md R263, R277, 93_implementation_defined.md U1, U2: the block's oracles are within the spec's
preconditions.
Rests on the spec's own decision D22 (92_eei_decisions.md). -/
def Obligations.OraclesMeetTheirPreconditions : Prop :=
  ∀ cap : Nat, (oracles cap).Meets cap

/-- 43_decode_pipeline.md R275: Produce returns its block, which always holds exactly `n` pairs, and writes nothing more than the
pull does; with `n = 0` (the spec's decision D31) it does nothing. -/
def Obligations.ProduceReturnsExactlyTheBlock : Prop :=
  ∀ (s : State) (n : Nat),
    exec (.produce n) s = .next { (produce (oracles s.cfg.sampleCap) n s).2 with
      ret := .block (produce (oracles s.cfg.sampleCap) n s).1 } ∧
    (produce (oracles s.cfg.sampleCap) n s).1.length = n ∧
    exec (.produce 0) s = .next { s with ret := .block [] }

/-- 43_decode_pipeline.md R275, R277: while the buffer holds enough pairs, Produce copies the next `n` of them and only moves the
cursor.
Rests on the spec's own decision D25 (92_eei_decisions.md). -/
def Obligations.ProduceDrainsTheBuffer : Prop :=
  ∀ (s : State) (n : Nat), s.smpRd + n ≤ s.smp.length →
    exec (.produce n) s = .next { s with
      smpRd := s.smpRd + n
      ret := .block (((s.smp.drop s.smpRd).take n).map
        (fun p => ⟨(oracles s.cfg.sampleCap).conv p.left, (oracles s.cfg.sampleCap).conv p.right⟩)) }

/-- 43_decode_pipeline.md R275, R276: with the buffer exhausted and no frame buffered the block is all silence, after one Fill.
Rests on the spec's own decision D25 (92_eei_decisions.md). -/
def Obligations.ProduceOfAnEmptyPipelineIsSilence : Prop :=
  ∀ (s : State) (n : Nat), s.smpRd = s.smp.length → s.frameBuffered = false → 0 < n →
    exec (.produce n) s = .next { s with
      frameSync := false, demand := true, trace := s.trace ++ [.frameSync false, .demand true]
      ret := .block (List.replicate n ⟨0, 0⟩) }

/-- 43_decode_pipeline.md R275: inside one Produce at most one Fill succeeds, and the decoder is called at most once, whatever the
oracles. -/
def Obligations.ProduceDecodesAtMostOneFrame : Prop :=
  ∀ (o : Oracles) (s : State) (n : Nat),
    (produce o n s).2.decodeCalls ≤ s.decodeCalls + 1 ∧
    ∃ es : List OutEvent, (produce o n s).2.trace = s.trace ++ es ∧ framesIn es ≤ 1

/-- 60_exceptions.md R303, 43_decode_pipeline.md R272, R278: a decode failure inside Produce resets the pipeline, emits one
`FrameSync(0)` and no demand, keeps the rate, and the block is silence, whatever the oracles.
Rests on the spec's own decision D24 (92_eei_decisions.md). -/
def Obligations.DecodeFailureGivesSilence : Prop :=
  ∀ (o : Oracles) (s : State) (n : Nat), s.smpRd = s.smp.length → s.frameBuffered = true → 0 < n →
    (o.decode s.decodeCalls s.ring).samples = [] →
    produce o n s = (List.replicate n ⟨0, 0⟩, { s with
      frameSync := false, trace := s.trace ++ [.frameSync false], decodeCalls := s.decodeCalls + 1
      ring := [], smp := [], smpRd := 0, frameBuffered := false, frameCounter := 0#32 })

/-- 43_decode_pipeline.md R279: over one Produce without a decode failure the frame counter moves by the number of `FrameSync(1)`
events, modulo `2^32`; after a failure, a decoder call without that event, it is 0.
Rests on the spec's own decision D26 (92_eei_decisions.md). -/
def Obligations.FrameCounterCountsFrameSyncs : Prop :=
  ∀ (o : Oracles) (s : State) (n : Nat),
    ∃ es : List OutEvent, (produce o n s).2.trace = s.trace ++ es ∧
      ((produce o n s).2.decodeCalls = s.decodeCalls + framesIn es →
        (produce o n s).2.frameCounter = s.frameCounter + BitVec.ofNat 32 (framesIn es)) ∧
      ((produce o n s).2.decodeCalls ≠ s.decodeCalls + framesIn es → (produce o n s).2.frameCounter = 0#32)

/-- 43_decode_pipeline.md R275 to R277 with R267 to R272: the whole of Produce, for any oracles. The pairs left in the buffer come
first; if more are wanted there is one Fill, and by its case the rest is silence, or the decoded pairs, with silence after a second,
empty Fill if they too are used up. Rests on the spec's own decisions D23, D24, D25, D26, D31 (92_eei_decisions.md). -/
def Obligations.ProduceByCase : Prop :=
  (∀ (s : State) (n : Nat), exec (.produce n) s = .next { (produce (oracles s.cfg.sampleCap) n s).2 with
    ret := .block (produce (oracles s.cfg.sampleCap) n s).1 }) ∧
  ∀ (o : Oracles) (s : State) (n : Nat), s.smpRd ≤ s.smp.length →
    let out (ps : List Stereo) : List OutPair := ps.map (fun p => ⟨o.conv p.left, o.conv p.right⟩)
    let left := s.smp.drop s.smpRd
    (n ≤ left.length → produce o n s = (out (left.take n), { s with smpRd := s.smpRd + n })) ∧
    (left.length < n → s.frameBuffered = false →
      produce o n s = (out left ++ List.replicate (n - left.length) ⟨0, 0⟩, { s with
        smpRd := s.smp.length, frameSync := false, demand := true, trace := s.trace ++ [.frameSync false, .demand true] })) ∧
    (left.length < n → s.frameBuffered = true → (o.decode s.decodeCalls s.ring).samples = [] →
      produce o n s = (out left ++ List.replicate (n - left.length) ⟨0, 0⟩, { s with
        frameSync := false, trace := s.trace ++ [.frameSync false], decodeCalls := s.decodeCalls + 1
        ring := [], smp := [], smpRd := 0, frameBuffered := false, frameCounter := 0#32 })) ∧
    (∀ d : Decoded, left.length < n → s.frameBuffered = true → o.decode s.decodeCalls s.ring = d → d.samples ≠ [] →
      (n ≤ left.length + d.samples.length →
        produce o n s = (out (left ++ d.samples.take (n - left.length)), { s with
          trace := s.trace ++ [.frameSync false, .frameSync true, .demand true]
          frameSync := true, demand := true, decodeCalls := s.decodeCalls + 1
          smp := d.samples, smpRd := n - left.length, ring := s.ring.drop d.consumed, outRate := d.rate
          frameCounter := s.frameCounter + 1#32, frameBuffered := false })) ∧
      (left.length + d.samples.length < n →
        produce o n s = (out (left ++ d.samples) ++ List.replicate (n - (left.length + d.samples.length)) ⟨0, 0⟩, { s with
          trace := s.trace ++ [.frameSync false, .frameSync true, .demand true, .frameSync false, .demand true]
          frameSync := false, demand := true, decodeCalls := s.decodeCalls + 1
          smp := d.samples, smpRd := d.samples.length, ring := s.ring.drop d.consumed, outRate := d.rate
          frameCounter := s.frameCounter + 1#32, frameBuffered := false })))

/-! ### Commands cut short -/

/-- 41_command_interpreter.md R192, 20_memory.md R83, 70_reset_and_hazards.md R357: each word of write-memory is dispatched when its
third byte completes. At the command byte of a data-write session the line calls of the five header bytes (count `n`) and of the
words `ws`, no more than `n` of them and perhaps fewer, have dispatched exactly these words; the first and the second byte of a
further word, which is within the count, are only assembled. Rests on the spec's own decision D15 (92_eei_decisions.md). -/
def Obligations.WordsAreDispatchedAsTheyComplete : Prop :=
  ∀ (s : State) (bank : Bool) (x : BitVec 4) (n a : Half) (ws : List WireWord),
    s.cfg.ok = true → byteFormat s = some .command → ws.length ≤ n.toNat →
    let sent := encode s.cfg (.wrmem bank x n a ws)
    let lastAt (loc : MemLoc) (g : GainVal) : GainVal :=
      ws.zipIdx.foldl (fun g p => if MemLoc.mk bank (a + BitVec.ofNat 16 p.2) = loc then gainOf p.1.w else g) g
    ∃ t : State, runWire sent s = .next t ∧
      t.trace = s.trace ++ ws.zipIdx.map (fun p => .memWrite bank (a + BitVec.ofNat 16 p.2) p.1.w) ∧
      t = { s with
        sclIn := false, sdaIn := t.sdaIn, sdaOut := false, acc := t.acc, bitIdx := none, busState := .ack
        cmd := .writeMemory, pos := 5 + 3 * ws.length, bank := bank, count := n, adr := a
        val := (ws.getLast?.map WireWord.w).getD s.val
        trace := t.trace
        gainLL := lastAt s.cfg.memGainLL s.gainLL
        gainRR := lastAt s.cfg.memGainRR s.gainRR
        outGainL := if s.muted then s.outGainL else lastAt s.cfg.memGainLL s.outGainL
        outGainR := if s.muted then s.outGainR else lastAt s.cfg.memGainRR s.outGainR } ∧
      some t.acc = sent.getLast? ∧ t.sdaIn = t.acc.getLsbD 0 ∧
      (ws.length < n.toNat → ∀ b0 b1 : Byte,
        runWire (sent ++ [b0]) s = .next { t with
          sdaIn := b0.getLsbD 0, acc := b0, val := 0#4 ++ b0 ++ 0#8, pos := t.pos + 1 } ∧
        runWire (sent ++ [b0, b1]) s = .next { t with
          sdaIn := b1.getLsbD 0, acc := b1, val := 0#4 ++ b0 ++ b1, pos := t.pos + 2 })
end

