-- ==== Sys2Proof/Laws/Decode.lean ====
section
/-! SUPPORT. Small facts about the bit fields of the encodings, which the proofs about the decoder and the encoder cite. -/

namespace Sys2Proof

/-- The upper part of a concatenation. -/
theorem extract_append_left {n m : Nat} (h : BitVec n) (l : BitVec m) : (h ++ l).extractLsb' m n = h := by
  ext i hi
  simp [BitVec.getLsbD_append, hi]

/-- The lower part of a concatenation. -/
theorem extract_append_right {n m : Nat} (h : BitVec n) (l : BitVec m) : (h ++ l).extractLsb' 0 m = l := by
  ext i hi
  simp [BitVec.getLsbD_append, hi]

/-- The two parts of a value, concatenated, are the value. -/
theorem append_extract {n m : Nat} (v : BitVec (n + m)) : v.extractLsb' m n ++ v.extractLsb' 0 m = v := by
  ext i hi
  simp only [BitVec.getElem_append, BitVec.getElem_extractLsb']
  split
  · simp only [Nat.zero_add, BitVec.getLsbD_eq_getElem hi]
  · simp only [show m + (i - m) = i by omega, BitVec.getLsbD_eq_getElem hi]

@[simp] theorem nibbleHi_append (h l : BitVec 4) : nibbleHi (h ++ l) = h := extract_append_left h l

@[simp] theorem nibbleLo_append (h l : BitVec 4) : nibbleLo (h ++ l) = l := extract_append_right h l

theorem nibbleHi_append_nibbleLo (b : Byte) : nibbleHi b ++ nibbleLo b = b := append_extract (n := 4) (m := 4) b

@[simp] theorem addr7_append (a : BitVec 7) (d : BitVec 1) : addr7 (a ++ d) = a := extract_append_left a d

/-- `addr7` as arithmetic. -/
theorem addr7_toNat (b : Byte) : (addr7 b).toNat = b.toNat / 2 := by
  revert b; decide

/-- `nibbleHi` as arithmetic. -/
theorem nibbleHi_toNat (b : Byte) : (nibbleHi b).toNat = b.toNat / 16 := by
  revert b; decide

@[simp] theorem byteHi_append (h l : Byte) : byteHi (h ++ l) = h := extract_append_left h l

@[simp] theorem byteLo_append (h l : Byte) : byteLo (h ++ l) = l := extract_append_right h l

@[simp] theorem byteHi_append_byteLo (v : Half) : byteHi v ++ byteLo v = v := append_extract (n := 8) (m := 8) v

@[simp] theorem wireWord_bits15_8 (a b c : Byte) : (wireWord a b c).w.extractLsb' 8 8 = a := by
  have h : (wireWord a b c).w.extractLsb' 8 8 = (nibbleLo c ++ a).extractLsb' 0 8 :=
    BitVec.extractLsb'_append_eq_of_le (xhi := nibbleLo c ++ a) (xlo := b) (start := 8) (len := 8) (by omega)
  rw [h]
  exact extract_append_right (nibbleLo c) a

@[simp] theorem wireWord_bits7_0 (a b c : Byte) : (wireWord a b c).w.extractLsb' 0 8 = b :=
  extract_append_right (nibbleLo c ++ a) b

@[simp] theorem wireWord_bits19_16 (a b c : Byte) : (wireWord a b c).w.extractLsb' 16 4 = nibbleLo c := by
  have h : (wireWord a b c).w.extractLsb' 16 4 = (nibbleLo c ++ a).extractLsb' 8 4 :=
    BitVec.extractLsb'_append_eq_of_le (xhi := nibbleLo c ++ a) (xlo := b) (start := 16) (len := 4) (by omega)
  rw [h]
  exact extract_append_left (nibbleLo c) a

/-- The three wire bytes of a word read back as the word. -/
theorem wireWord_of_encodeWord (w : WireWord) :
    wireWord (w.w.extractLsb' 8 8) (w.w.extractLsb' 0 8) (w.pad ++ w.w.extractLsb' 16 4) = w := by
  obtain ⟨w, p⟩ := w
  have h1 : w.extractLsb' 16 4 ++ w.extractLsb' 8 8 = w.extractLsb' 8 12 :=
    BitVec.extractLsb'_append_extractLsb'_eq_extractLsb' (by omega)
  have h2 : w.extractLsb' 8 12 ++ w.extractLsb' 0 8 = w := append_extract (n := 12) (m := 8) w
  simp only [wireWord, nibbleLo_append, nibbleHi_append, WireWord.mk.injEq, and_true]
  exact (congrArg (· ++ w.extractLsb' 0 8) h1).trans h2

/-- The encoding of a word read from three bytes is those bytes. -/
theorem encodeWord_of_wireWord (a b c : Byte) : encodeWord (wireWord a b c) = [a, b, c] := by
  simp only [encodeWord, wireWord_bits15_8, wireWord_bits7_0, wireWord_bits19_16]
  exact congrArg (fun x => [a, b, x]) (nibbleHi_append_nibbleLo c)

/-! ### What the command decoder reads, by high nibble (R107) -/

theorem decodeCommand_run {b : Byte} (h : nibbleHi b = 0x0#4 ∨ nibbleHi b = 0x1#4) (b1 : Byte) (t : List Byte) :
    decodeCommand b (b1 :: t) = .ok (.run (b.getLsbD 4) (nibbleLo b ++ b1), t) := by
  rcases h with h | h <;> (unfold decodeCommand; rw [h]; rfl)

theorem decodeCommand_run_short {b : Byte} (h : nibbleHi b = 0x0#4 ∨ nibbleHi b = 0x1#4) :
    decodeCommand b [] = .error .truncated := by
  rcases h with h | h <;> (unfold decodeCommand; rw [h]; rfl)

theorem decodeCommand_bad2 {b : Byte} (h : nibbleHi b = 0x2#4) (t : List Byte) :
    decodeCommand b t = .ok (.bad2 (nibbleLo b), t) := by
  unfold decodeCommand; rw [h]; rfl

theorem decodeCommand_rdctl {b : Byte} (h : nibbleHi b = 0x3#4) (t : List Byte) :
    decodeCommand b t = .ok (.rdctl (nibbleLo b), t) := by
  unfold decodeCommand; rw [h]; rfl

theorem decodeCommand_bad47 {b : Byte}
    (h : nibbleHi b = 0x4#4 ∨ nibbleHi b = 0x5#4 ∨ nibbleHi b = 0x6#4 ∨ nibbleHi b = 0x7#4) (t : List Byte) :
    decodeCommand b t = .ok (.bad47 (b.extractLsb' 0 6), t) := by
  rcases h with h | h | h | h <;> (unfold decodeCommand; rw [h]; rfl)

theorem decodeCommand_bad8 {b : Byte} (h : nibbleHi b = 0x8#4) (t : List Byte) :
    decodeCommand b t = .ok (.bad8 (nibbleLo b), t) := by
  unfold decodeCommand; rw [h]; rfl

theorem decodeCommand_wrreg {b : Byte} (h : nibbleHi b = 0x9#4) (b1 b2 b3 : Byte) (t : List Byte) :
    decodeCommand b (b1 :: b2 :: b3 :: t) =
      .ok (.wrreg (nibbleLo b ++ nibbleHi b1) (nibbleLo b1) (b2 ++ b3), t) := by
  unfold decodeCommand; rw [h]; rfl

theorem decodeCommand_wrreg_short {b : Byte} (h : nibbleHi b = 0x9#4) {t : List Byte} (ht : t.length < 3) :
    decodeCommand b t = .error .truncated := by
  match t with
  | [] => unfold decodeCommand; rw [h]; rfl
  | [_] => unfold decodeCommand; rw [h]; rfl
  | [_, _] => unfold decodeCommand; rw [h]; rfl
  | _ :: _ :: _ :: _ => simp only [List.length_cons] at ht; omega

theorem decodeCommand_wrmem {b : Byte} (h : nibbleHi b = 0xA#4 ∨ nibbleHi b = 0xB#4) (n1 n0 a1 a0 : Byte) (t : List Byte) :
    decodeCommand b (n1 :: n0 :: a1 :: a0 :: t) =
      match takeWords (n1 ++ n0 : Half).toNat t with
      | some (ws, t') => .ok (.wrmem (b.getLsbD 4) (nibbleLo b) (n1 ++ n0) (a1 ++ a0) ws, t')
      | none => .error .truncated := by
  rcases h with h | h <;> (unfold decodeCommand; rw [h]; rfl)

theorem decodeCommand_wrmem_short {b : Byte} (h : nibbleHi b = 0xA#4 ∨ nibbleHi b = 0xB#4) {t : List Byte}
    (ht : t.length < 4) : decodeCommand b t = .error .truncated := by
  match t with
  | [] => rcases h with h | h <;> (unfold decodeCommand; rw [h]; rfl)
  | [_] => rcases h with h | h <;> (unfold decodeCommand; rw [h]; rfl)
  | [_, _] => rcases h with h | h <;> (unfold decodeCommand; rw [h]; rfl)
  | [_, _, _] => rcases h with h | h <;> (unfold decodeCommand; rw [h]; rfl)
  | _ :: _ :: _ :: _ :: _ => simp only [List.length_cons] at ht; omega

theorem decodeCommand_badC {b : Byte} (h : nibbleHi b = 0xC#4) (t : List Byte) :
    decodeCommand b t = .ok (.badC (nibbleLo b), t) := by
  unfold decodeCommand; rw [h]; rfl

theorem decodeCommand_rdreg {b : Byte} (h : nibbleHi b = 0xD#4) (t : List Byte) :
    decodeCommand b t = .ok (.rdreg (nibbleLo b), t) := by
  unfold decodeCommand; rw [h]; rfl

theorem decodeCommand_rdmem {b : Byte} (h : nibbleHi b = 0xE#4 ∨ nibbleHi b = 0xF#4) (t : List Byte) :
    decodeCommand b t = .ok (.rdmem (b.getLsbD 4) (nibbleLo b), t) := by
  rcases h with h | h <;> (unfold decodeCommand; rw [h]; rfl)

/-- The sixteen command nibbles, as the cases of the lemmas above. -/
theorem nibble_cases (h : BitVec 4) :
    (h = 0x0#4 ∨ h = 0x1#4) ∨ h = 0x2#4 ∨ h = 0x3#4 ∨ (h = 0x4#4 ∨ h = 0x5#4 ∨ h = 0x6#4 ∨ h = 0x7#4) ∨ h = 0x8#4 ∨
      h = 0x9#4 ∨ (h = 0xA#4 ∨ h = 0xB#4) ∨ h = 0xC#4 ∨ h = 0xD#4 ∨ (h = 0xE#4 ∨ h = 0xF#4) := by
  revert h; decide

/-! ### The two bit fields below a 3-bit opcode -/

theorem op3_nibble (p : BitVec 3) (x : Bool) (l : BitVec 4) :
    nibbleHi (p ++ BitVec.ofBool x ++ l) = p ++ BitVec.ofBool x := nibbleHi_append _ _

theorem op3_low (p : BitVec 3) (x : Bool) (l : BitVec 4) : nibbleLo (p ++ BitVec.ofBool x ++ l) = l :=
  nibbleLo_append _ _

theorem op3_bit4 (p : BitVec 3) (x : Bool) (l : BitVec 4) : (p ++ BitVec.ofBool x ++ l).getLsbD 4 = x := by
  revert p x l; decide

/-! ### Memory words -/

/-- As many words as were encoded are read back. -/
theorem takeWords_of_encodeWord (ws : List WireWord) (rest : List Byte) :
    takeWords ws.length (ws.flatMap encodeWord ++ rest) = some (ws, rest) := by
  induction ws with
  | nil => rfl
  | cons w ws ih =>
    simp only [List.length_cons, List.flatMap_cons, encodeWord, List.cons_append, List.nil_append, takeWords, ih,
      wireWord_of_encodeWord]

/-- Words that were read encode to the bytes they were read from. -/
theorem encodeWord_of_takeWords {n : Nat} {bs rest : List Byte} {ws : List WireWord}
    (h : takeWords n bs = some (ws, rest)) : ws.length = n ∧ ws.flatMap encodeWord ++ rest = bs := by
  induction n generalizing bs ws with
  | zero =>
    simp only [takeWords, Option.some.injEq, Prod.mk.injEq] at h
    obtain ⟨rfl, rfl⟩ := h
    exact ⟨rfl, rfl⟩
  | succ n ih =>
    match bs, h with
    | a :: b :: c :: bs, h =>
      simp only [takeWords] at h
      split at h
      · rename_i ws' rest' h'
        simp only [Option.some.injEq, Prod.mk.injEq] at h
        obtain ⟨rfl, rfl⟩ := h
        have := ih h'
        exact ⟨by simp [this.1], by simp [encodeWord_of_wireWord, ← this.2]⟩
      · cases h

/-- Words are read exactly when their bytes are there. -/
theorem takeWords_isSome (n : Nat) (bs : List Byte) : (takeWords n bs).isSome = decide (3 * n ≤ bs.length) := by
  induction n generalizing bs with
  | zero => simp [takeWords]
  | succ n ih =>
    match bs with
    | [] => simp [takeWords]
    | [_] => simp [takeWords]; omega
    | [_, _] => simp [takeWords]; omega
    | _ :: _ :: _ :: bs =>
      rw [takeWords]
      have h := ih bs
      cases hw : takeWords n bs with
      | none => rw [hw] at h; simp at h; simp; omega
      | some p => rw [hw] at h; simp at h; simp; omega

end Sys2Proof
end

