-- ==== Sys2Proof/Laws/Operands.lean ====
section
/-! SUPPORT. What the operand assembly, the bit of a bit cell, the payload transposition and the line conditions compute. -/

namespace Sys2Proof.Machine

open Sys2Proof.Config

/-- Sampling writes the one bit at the index (40_bus_protocol.md R150). -/
theorem setBit_bit (acc : Byte) (i : Fin 8) (v : Bool) (j : Nat) (hj : j < 8) :
    (setBit acc i v).getLsbD j = if j = i.val then v else acc.getLsbD j := by
  have hs : (1#8 <<< i.val).getLsbD j = decide (j = i.val) := by
    simp only [BitVec.getLsbD_shiftLeft, BitVec.getLsbD_one, hj, decide_true, Bool.true_and]
    by_cases h : j < i.val
    · simp [h]; omega
    · simp [h]; omega
  unfold setBit
  cases v <;> simp only [BitVec.getLsbD_or, BitVec.getLsbD_and, BitVec.getLsbD_not, hs, hj, decide_true, Bool.true_and, if_true, if_false, BitVec.getLsbD_zero, Bool.or_false, Bool.false_eq_true] <;> by_cases h : j = i.val <;> simp [h]

/-- Zero-extension, shift and OR is concatenation (41_command_interpreter.md R201 (a)). -/
theorem or_shift {p k : Nat} (n : Nat) (h : BitVec p) (l : BitVec k) : (h.setWidth n <<< k) ||| l.setWidth n = (h ++ l).setWidth n := by
  apply BitVec.eq_of_getLsbD_eq
  intro i hi
  simp only [BitVec.getLsbD_or, BitVec.getLsbD_shiftLeft, BitVec.getLsbD_setWidth, BitVec.getLsbD_append, hi, decide_true, Bool.true_and]
  by_cases hk : i < k
  · simp [hk]
  · simp [hk, BitVec.getLsbD_of_ge l i (by omega), show i - k < n by omega]

/-- The assembled program address of RUN (R188). -/
theorem run_address (b0 b1 : Byte) : withHalfLow (runAddrHigh b0) b1 = (nibbleLo b0 ++ b1 : BitVec 12).setWidth 16 := or_shift 16 (nibbleLo b0) b1

/-- The assembled register address of WRREG (R190). -/
theorem register_address (b0 b1 : Byte) : withRegAddrLow (regAddrHigh b0) b1 = (nibbleLo b0 ++ nibbleHi b1 : BitVec 8).setWidth 16 := or_shift 16 (nibbleLo b0) (nibbleHi b1)

/-- An assembled 16-bit count or address of WRMEM (R192). -/
theorem half_value (h l : Byte) : withHalfLow (halfHigh h) l = (h ++ l : Half) := by
  have := or_shift 16 h l
  exact this.trans (BitVec.setWidth_eq _)

/-- The assembled value of WRREG (R190). -/
theorem register_value (h l : Byte) : withValLow (valHigh h) l = (h ++ l : Half).setWidth 20 := or_shift 20 h l

/-- The assembled memory word (R192). -/
theorem memory_word (a b c : Byte) : withValTop (withValLow (valHigh a) b) c = (wireWord a b c).w := by
  rw [register_value]
  unfold withValTop wireWord
  rw [BitVec.or_comm]
  have := or_shift 20 (nibbleLo c) (a ++ b : Half)
  refine this.trans ?_
  refine (BitVec.setWidth_eq (nibbleLo c ++ (a ++ b : Half) : BitVec 20)).trans ?_
  apply BitVec.eq_of_getLsbD_eq
  intro i hi
  have e : (nibbleLo c ++ a ++ b : BitVec (4 + 8 + 8)).getLsbD i = (nibbleLo c ++ (a ++ b : BitVec (8 + 8)) : BitVec (4 + (8 + 8))).getLsbD i := by
    simp only [BitVec.getLsbD_append]
    repeat' split
    all_goals first | omega | rfl
  exact e.symm

/-- The dispatched register address is the assembled one. -/
@[simp] theorem regAddr_setWidth (r : BitVec 8) : regAddr (r.setWidth 16) = r := by revert r; decide

/-- The dispatched register value is the assembled one. -/
@[simp] theorem regValue_setWidth (v : Half) : regValue (v.setWidth 20) = v := by
  unfold regValue
  apply BitVec.eq_of_getLsbD_eq
  intro i hi
  simp [hi]; omega

/-- The bits of the transposed payload (R200). -/
theorem transpose_bit (f : Quad) (i : Nat) : (transpose f).getLsbD i =
    if i < 8 then f.getLsbD (8 + i) else if i < 16 then f.getLsbD (i - 8)
    else if i < 24 then f.getLsbD (8 + i) else if i < 32 then f.getLsbD (i - 8) else false := by
  have e : (transpose f).getLsbD i =
    (f.extractLsb' 16 8 ++ f.extractLsb' 24 8 ++ f.extractLsb' 0 8 ++ f.extractLsb' 8 8 : BitVec (8 + 8 + 8 + 8)).getLsbD i := rfl
  rw [e]
  simp only [BitVec.getLsbD_append, BitVec.getLsbD_extractLsb']
  repeat' split
  all_goals first
    | omega
    | simp only [show i < 8 by omega, decide_true, Bool.true_and]
    | (simp only [show i - 8 - 8 < 8 by omega, decide_true, Bool.true_and]; congr 1; omega)
    | (simp only [show i - 8 - 8 - 8 < 8 by omega, decide_true, Bool.true_and]; congr 1; omega)
    | (simp only [show i - 8 < 8 by omega, decide_true, Bool.true_and]; congr 1; omega)
    | (simp only [show ¬ (i - 8 - 8 - 8 < 8) by omega, decide_false, Bool.false_and])

/-- Outside `data-read` a bit cell drives low (40_bus_protocol.md R151). -/
theorem driveLevel_low {s : State} (h : s.subdest ≠ .dataRead) (i : Nat) : driveLevel s i = false := by simp [driveLevel, h]

/-- Under `SDA_RELEASE = literal` nothing releases the data line (40_bus_protocol.md R160). -/
theorem releasedSda_literal {s : State} (h : s.cfg.sdaRelease = .literal) : releasedSda s = s.sdaOut := by
  simp [releasedSda, h]

/-- The data line after `Nak` or `Idle` is entered, by the parameter (40_bus_protocol.md R160). -/
theorem releasedSda_eq (s : State) : releasedSda s = if s.cfg.sdaRelease = .onNakIdle then true else s.sdaOut := by
  unfold releasedSda; cases s.cfg.sdaRelease <;> simp

end Sys2Proof.Machine
end

