-- ==== Sys2Proof/Laws/Command.lean ====
section
/-! SUPPORT. What the dispatches, a command byte, and the interpreter of a completed byte can do: which elements they leave, and by
case what they answer. -/

namespace Sys2Proof.Machine

open Sys2Proof.Config

theorem SamePipeline.refl (s : State) : SamePipeline s s := ⟨rfl, rfl, rfl, rfl, rfl, rfl, rfl, rfl, rfl⟩

/-- What a dispatch or a command byte leaves: lines, session, payload, pipeline, the model's own fields; it may append events. -/
structure CommandFrame (s t : State) : Prop where
  sclIn : t.sclIn = s.sclIn
  sdaIn : t.sdaIn = s.sdaIn
  sclOut : t.sclOut = s.sclOut
  sdaOut : t.sdaOut = s.sdaOut
  busState : t.busState = s.busState
  acc : t.acc = s.acc
  bitIdx : t.bitIdx = s.bitIdx
  addrStatus : t.addrStatus = s.addrStatus
  subdest : t.subdest = s.subdest
  pos : t.pos = s.pos
  cmd : t.cmd = s.cmd
  payload : t.payload = s.payload
  pipeline : SamePipeline s t
  cfg : t.cfg = s.cfg
  input : t.input = s.input
  ret : t.ret = s.ret
  trace : ∃ es, t.trace = s.trace ++ es

/-- The frame does not depend on what `VAL` held. -/
theorem CommandFrame.of_val {s t : State} (v : MemWord) (h : CommandFrame { s with val := v } t) : CommandFrame s t :=
  ⟨h.sclIn, h.sdaIn, h.sclOut, h.sdaOut, h.busState, h.acc, h.bitIdx, h.addrStatus, h.subdest, h.pos, h.cmd, h.payload, h.pipeline, h.cfg, h.input, h.ret, h.trace⟩

/-- The frame of a register write (42_dispatch_gain_mute.md R231). -/
theorem regWrite_frame (a : BitVec 8) (v : Half) (s : State) : CommandFrame s (regWrite a v s) := by
  unfold regWrite mute emit
  dsimp only
  split <;> exact ⟨rfl, rfl, rfl, rfl, rfl, rfl, rfl, rfl, rfl, rfl, rfl, rfl, ⟨rfl, rfl, rfl, rfl, rfl, rfl, rfl, rfl, rfl⟩, rfl, rfl, rfl, _, rfl⟩

/-- The frame of a memory write (42_dispatch_gain_mute.md R232). -/
theorem memWrite_frame (bank : Bool) (a : Half) (v : MemWord) (s : State) : CommandFrame s (memWrite bank a v s) := by
  unfold memWrite gainLeft gainRight emit
  dsimp only
  repeat' split
  all_goals exact ⟨rfl, rfl, rfl, rfl, rfl, rfl, rfl, rfl, rfl, rfl, rfl, rfl, ⟨rfl, rfl, rfl, rfl, rfl, rfl, rfl, rfl, rfl⟩, rfl, rfl, rfl, _, rfl⟩

/-- A memory write in one update: each channel's gain and output, by the location (42_dispatch_gain_mute.md R232 to R236). -/
theorem memWrite_eq {s : State} (hok : s.cfg.ok = true) (bank : Bool) (a : Half) (v : MemWord) : memWrite bank a v s = { s with
    trace := s.trace ++ [.memWrite bank a v]
    gainLL := if MemLoc.mk bank a = s.cfg.memGainLL then gainOf v else s.gainLL
    gainRR := if MemLoc.mk bank a = s.cfg.memGainRR then gainOf v else s.gainRR
    outGainL := if s.muted then s.outGainL else if MemLoc.mk bank a = s.cfg.memGainLL then gainOf v else s.outGainL
    outGainR := if s.muted then s.outGainR else if MemLoc.mk bank a = s.cfg.memGainRR then gainOf v else s.outGainR } := by
  simp [Params.ok] at hok
  obtain ⟨⟨-, -, -, h, -⟩, -⟩ := hok
  unfold memWrite emit gainLeft gainRight
  dsimp only
  split
  · rename_i e
    simp [e, h]
  split <;> simp

/-- The frame of a command byte that is no overrun (41_command_interpreter.md R187). -/
theorem commandByte_frame {b : Byte} {s t : State} (h : commandByte b s = some t) : CommandFrame s t := by
  unfold commandByte runByte readControlByte writeRegisterByte writeMemoryByte memoryWordByte readRegisterByte readMemoryByte at h
  repeat' split at h
  all_goals cases h
  all_goals first
    | exact ⟨rfl, rfl, rfl, rfl, rfl, rfl, rfl, rfl, rfl, rfl, rfl, rfl, ⟨rfl, rfl, rfl, rfl, rfl, rfl, rfl, rfl, rfl⟩, rfl, rfl, rfl, _, rfl⟩
    | exact ⟨rfl, rfl, rfl, rfl, rfl, rfl, rfl, rfl, rfl, rfl, rfl, rfl, ⟨rfl, rfl, rfl, rfl, rfl, rfl, rfl, rfl, rfl⟩, rfl, rfl, rfl, [], (List.append_nil _).symm⟩
    | exact .of_val _ (regWrite_frame _ _ { s with val := _ })
    | exact .of_val _ (memWrite_frame _ _ _ { s with val := _ })

/-- `Operand(b)` counts the byte or forces the NAK (41_command_interpreter.md R187). -/
theorem operand_cases (b : Byte) (s : State) :
    (∃ t, commandByte b s = some t ∧ operand b s = { t with pos := s.pos + 1 } ∧ CommandFrame s t) ∨
    (commandByte b s = none ∧ operand b s = enterNak s) := by
  unfold operand
  cases h : commandByte b s with
  | none => exact .inr ⟨rfl, rfl⟩
  | some t =>
    have f := commandByte_frame h
    exact .inl ⟨t, rfl, by simp only [f.pos], f⟩

/-- A byte that is no overrun is counted. -/
theorem operand_some {b : Byte} {s t : State} (h : commandByte b s = some t) : operand b s = { t with pos := t.pos + 1 } := by
  unfold operand; rw [h]

/-- The pending command by high nibble (41_command_interpreter.md R186). -/
theorem pendingCommand_cases (b : Byte) :
    ((nibbleHi b = 0x0#4 ∨ nibbleHi b = 0x1#4) → pendingCommand b = .runProgram) ∧
    (nibbleHi b = 0x3#4 → pendingCommand b = .readControl) ∧
    (nibbleHi b = 0x9#4 → pendingCommand b = .writeRegister) ∧
    ((nibbleHi b = 0xA#4 ∨ nibbleHi b = 0xB#4) → pendingCommand b = .writeMemory) ∧
    (nibbleHi b = 0xD#4 → pendingCommand b = .readRegister) ∧
    ((nibbleHi b = 0xE#4 ∨ nibbleHi b = 0xF#4) → pendingCommand b = .readMemory) ∧
    ((nibbleHi b = 0x2#4 ∨ nibbleHi b = 0x4#4 ∨ nibbleHi b = 0x5#4 ∨ nibbleHi b = 0x6#4 ∨ nibbleHi b = 0x7#4 ∨ nibbleHi b = 0x8#4 ∨ nibbleHi b = 0xC#4) → pendingCommand b = .bad) := by
  revert b; decide

/-- The first byte of a memory word below the count (41_command_interpreter.md R192). -/
theorem memoryWordByte_zero {s : State} {k : Nat} (h : k < s.count.toNat) (b : Byte) : memoryWordByte (3 * k) b s = some { s with val := valHigh b } := by
  unfold memoryWordByte
  have d : 3 * k / 3 = k := by omega
  rw [if_neg (by rw [d]; omega)]
  have : 3 * k % 3 = 0 := by omega
  rw [this]; rfl

/-- The second byte of a memory word below the count. -/
theorem memoryWordByte_one {s : State} {k : Nat} (h : k < s.count.toNat) (b : Byte) : memoryWordByte (3 * k + 1) b s = some { s with val := withValLow s.val b } := by
  unfold memoryWordByte
  have d : (3 * k + 1) / 3 = k := by omega
  rw [if_neg (by rw [d]; omega)]
  have : (3 * k + 1) % 3 = 1 := by omega
  rw [this]; rfl

/-- The third byte of a memory word below the count dispatches it. -/
theorem memoryWordByte_two {s : State} {k : Nat} (h : k < s.count.toNat) (b : Byte) : memoryWordByte (3 * k + 2) b s =
   some (memWrite s.bank (wordAddr s.adr k) (withValTop s.val b) { s with val := withValTop s.val b }) := by
  unfold memoryWordByte
  have d : (3 * k + 2) / 3 = k := by omega
  rw [if_neg (by rw [d]; omega)]
  have h2 : (3 * k + 2) % 3 = 2 := by omega
  have h3 : (3 * k + 2) / 3 = k := by omega
  rw [h2, h3]; rfl

/-- What completing a byte leaves: the lines the master drives, `BIT_IDX`, the pipeline, the model's own fields; the data output only
by `SDA_RELEASE`, the payload only by its load. -/
structure ByteFrame (s t : State) : Prop where
  sclIn : t.sclIn = s.sclIn
  sdaIn : t.sdaIn = s.sdaIn
  sclOut : t.sclOut = s.sclOut
  sdaOut : t.sdaOut = s.sdaOut ∨ t.sdaOut = releasedSda s
  bitIdx : t.bitIdx = s.bitIdx
  payload : t.payload = s.payload ∨ t.payload = transpose s.frameCounter
  pipeline : SamePipeline s t
  cfg : t.cfg = s.cfg
  input : t.input = s.input
  ret : t.ret = s.ret
  trace : ∃ es, t.trace = s.trace ++ es

/-- Doing nothing is within the frame. -/
theorem ByteFrame.keep (s : State) : ByteFrame s s :=
  ⟨rfl, rfl, rfl, .inl rfl, rfl, .inl rfl, .refl _, rfl, rfl, rfl, [], (List.append_nil _).symm⟩

/-- A command byte is within the frame of a completed byte. -/
theorem CommandFrame.byteFrame {s t : State} (h : CommandFrame s t) : ByteFrame s t :=
  ⟨h.sclIn, h.sdaIn, h.sclOut, .inl h.sdaOut, h.bitIdx, .inl h.payload, h.pipeline, h.cfg, h.input, h.ret, h.trace⟩

/-- The frame of entering `Nak` (40_bus_protocol.md R158 to R160). -/
theorem enterNak_frame (s : State) : ByteFrame s (enterNak s) :=
  ⟨rfl, rfl, rfl, .inr rfl, rfl, .inl rfl, .refl _, rfl, rfl, rfl, [], (List.append_nil _).symm⟩

/-- The frame of `Operand(b)`. -/
theorem operand_frame (b : Byte) (s : State) : ByteFrame s (operand b s) := by
  rcases operand_cases b s with ⟨t, -, e, f⟩ | ⟨-, e⟩ <;> rw [e]
  · obtain h := f.byteFrame
    exact ⟨h.sclIn, h.sdaIn, h.sclOut, h.sdaOut, h.bitIdx, h.payload, h.pipeline, h.cfg, h.input, h.ret, h.trace⟩
  · exact enterNak_frame s

/-- The frame of `DataWrite(b)` (41_command_interpreter.md R185). -/
theorem dataWrite_frame (b : Byte) (s : State) : ByteFrame s (dataWrite b s) := by
  unfold dataWrite decodeCommandByte
  split
  · have h := operand_frame b { s with cmd := pendingCommand b }
    exact ⟨h.sclIn, h.sdaIn, h.sclOut, h.sdaOut, h.bitIdx, h.payload, h.pipeline, h.cfg, h.input, h.ret, h.trace⟩
  · exact operand_frame b s

/-- The frame of `Interpret(b)` (41_command_interpreter.md R180). -/
theorem interpret_frame (b : Byte) (s : State) : ByteFrame s (interpret b s) := by
  unfold interpret
  split
  · unfold select
    repeat' split
    all_goals first
      | exact ⟨rfl, rfl, rfl, .inl rfl, rfl, .inl rfl, .refl _, rfl, rfl, rfl, [], (List.append_nil _).symm⟩
      | exact ⟨rfl, rfl, rfl, .inl rfl, rfl, .inr rfl, .refl _, rfl, rfl, rfl, [], (List.append_nil _).symm⟩
  · exact .keep s
  · exact ⟨rfl, rfl, rfl, .inl rfl, rfl, .inl rfl, .refl _, rfl, rfl, rfl, _, rfl⟩
  · unfold dataRead raiseProtocolOverrun
    split
    · exact enterNak_frame s
    · exact ⟨rfl, rfl, rfl, .inl rfl, rfl, .inl rfl, .refl _, rfl, rfl, rfl, [], (List.append_nil _).symm⟩
  · exact dataWrite_frame b s

/-- `Operand(b)` leaves the address status, and the bus state but for a NAK. -/
theorem operand_bus (b : Byte) (s : State) : (operand b s).addrStatus = s.addrStatus ∧ ((operand b s).busState = s.busState ∨ (operand b s).busState = .nak) := by
  rcases operand_cases b s with ⟨t, -, e, f⟩ | ⟨-, e⟩ <;> rw [e]
  · exact ⟨f.addrStatus, .inl f.busState⟩
  · exact ⟨rfl, .inr rfl⟩

/-- `Interpret(b)` leaves the address status, and the bus state but for a NAK. -/
theorem interpret_bus (b : Byte) (s : State) : (interpret b s).addrStatus = s.addrStatus ∧
    ((interpret b s).busState = s.busState ∨ (interpret b s).busState = .nak) := by
  unfold interpret
  split
  · unfold select; repeat' split
    all_goals exact ⟨rfl, .inl rfl⟩
  · exact ⟨rfl, .inl rfl⟩
  · exact ⟨rfl, .inl rfl⟩
  · unfold dataRead; split
    · exact ⟨rfl, .inr rfl⟩
    · exact ⟨rfl, .inl rfl⟩
  · unfold dataWrite decodeCommandByte; split
    · exact operand_bus b { s with cmd := pendingCommand b }
    · exact operand_bus b s

/-- A byte without sub-destination is the selector (41_command_interpreter.md R181). -/
theorem interpret_undefined {s : State} (h : s.subdest = .undefined) (b : Byte) : interpret b s = select b s := by
  unfold interpret; split <;> simp_all

/-- A byte of the `bad` sub-destination does nothing (R182). -/
theorem interpret_bad {s : State} (h : s.subdest = .bad) (b : Byte) : interpret b s = s := by
  unfold interpret; split <;> simp_all [discardByte]

/-- A byte of the `control` sub-destination is reported (R183). -/
theorem interpret_control {s : State} (h : s.subdest = .control) (b : Byte) : interpret b s = controlByte b s := by
  unfold interpret; split <;> simp_all

/-- A byte of the `data-read` sub-destination is a read group (R184). -/
theorem interpret_dataRead {s : State} (h : s.subdest = .dataRead) (b : Byte) : interpret b s = dataRead s := by
  unfold interpret; split <;> simp_all

/-- A byte of the `data-write` sub-destination is a command byte (R185). -/
theorem interpret_dataWrite {s : State} (h : s.subdest = .dataWrite) (b : Byte) : interpret b s = dataWrite b s := by
  unfold interpret; split <;> simp_all

/-- A command byte keeps the sub-destination. -/
theorem dataWrite_subdest (b : Byte) {s : State} (h : s.subdest = .dataWrite) : (dataWrite b s).subdest = .dataWrite := by
  unfold dataWrite decodeCommandByte
  split
  · rcases operand_cases b { s with cmd := pendingCommand b } with ⟨t, c, e, f⟩ | ⟨-, e⟩ <;> rw [e]
    · exact f.subdest.trans h
    · exact h
  · rcases operand_cases b s with ⟨t, c, e, f⟩ | ⟨-, e⟩ <;> rw [e]
    · exact f.subdest.trans h
    · exact h

/-- The command byte of a session, clocked in (41_command_interpreter.md R186). -/
theorem wire_first {s : State} (hn : s.busState ≠ .nak) (hp : s.pos = 0) (hd : s.subdest = .dataWrite) (b : Byte) : commandWireByte s b = operand b
   { s with sclIn := false, sdaIn := b.getLsbD 0, sdaOut := false, acc := b, bitIdx := none, busState := .ack, cmd := pendingCommand b } := by
  unfold commandWireByte
  rw [if_neg hn]
  unfold dataWrite
  rw [if_pos (by exact hp)]
  unfold decodeCommandByte acknowledge clockIn
  rw [driveLevel_low (by rw [hd]; decide)]

/-- A later byte of a command, clocked in (41_command_interpreter.md R187). -/
theorem wire_next {s : State} (hn : s.busState ≠ .nak) (hp : s.pos ≠ 0) (hd : s.subdest = .dataWrite) (b : Byte) : commandWireByte s b = operand b
   { s with sclIn := false, sdaIn := b.getLsbD 0, sdaOut := false, acc := b, bitIdx := none, busState := .ack } := by
  unfold commandWireByte
  rw [if_neg hn]
  unfold dataWrite
  rw [if_neg (by exact hp)]
  unfold acknowledge clockIn
  rw [driveLevel_low (by rw [hd]; decide)]

end Sys2Proof.Machine
end

