-- ==== Sys2Proof/Laws/Bus.lean ====
section
/-! SUPPORT. What the completion of a byte, a bit cell, a clock edge and a step can do. -/

namespace Sys2Proof.Machine

open Sys2Proof.Config

/-- The frame of `AddressByte(b)` (40_bus_protocol.md R153). -/
theorem addressByte_frame (b : Byte) (s : State) : ByteFrame s (addressByte b s) := by
  unfold addressByte
  split
  · exact ⟨rfl, rfl, rfl, .inl rfl, rfl, .inl rfl, .refl _, rfl, rfl, rfl, [], (List.append_nil _).symm⟩
  · exact ⟨rfl, rfl, rfl, .inr rfl, rfl, .inl rfl, .refl _, rfl, rfl, rfl, [], (List.append_nil _).symm⟩

/-- The frame of `DataByte(b)` (40_bus_protocol.md R154). -/
theorem dataByte_frame (b : Byte) (s : State) : ByteFrame s (dataByte b s) := by
  have h := interpret_frame b (acknowledge s)
  exact ⟨h.sclIn, h.sdaIn, h.sclOut, h.sdaOut, h.bitIdx, h.payload, h.pipeline, h.cfg, h.input, h.ret, h.trace⟩

/-- The frame of `ByteComplete()` (40_bus_protocol.md R152). -/
theorem byteComplete_frame (s : State) : ByteFrame s (byteComplete s) := by
  unfold byteComplete
  split
  · exact addressByte_frame _ _
  · exact dataByte_frame _ _
  · exact .keep s

/-- The first byte of a session is the address byte (40_bus_protocol.md R152). -/
theorem byteComplete_unresolved {s : State} (h : s.addrStatus = .unresolved) : byteComplete s = addressByte s.acc s := by
  unfold byteComplete; split <;> simp_all

/-- Every later byte is a data byte (40_bus_protocol.md R152, R154). -/
theorem byteComplete_valid {s : State} (h : s.addrStatus = .valid) : byteComplete s = interpret s.acc (acknowledge s) := by
  unfold byteComplete; split <;> simp_all [dataByte]

/-- Where a completed byte leaves the bus: acknowledged with a valid address, or in `Nak`. -/
structure Settled (t : State) : Prop where
  bus : t.busState = .ack ∨ t.busState = .nak
  ack : t.busState = .ack → t.addrStatus = .valid

/-- Completing a byte ends in `Ack` or `Nak`. -/
theorem byteComplete_bus {s : State} (h : s.addrStatus ≠ .invalid) : Settled (byteComplete s) := by
  unfold byteComplete
  split
  · unfold addressByte; split
    · exact ⟨.inl rfl, fun _ => rfl⟩
    · exact ⟨.inr rfl, fun h => by cases h⟩
  · rename_i ha
    obtain ⟨h1, h2⟩ := interpret_bus s.acc (acknowledge s)
    exact ⟨h2, fun _ => h1.trans ha⟩
  · contradiction

/-- Completing a byte does not depend on the bus state it was completed in. -/
theorem byteComplete_busState {s : State} (h : s.addrStatus ≠ .invalid) (x : BusState) : byteComplete { s with busState := x } = byteComplete s := by
  unfold byteComplete; dsimp only; split
  · unfold addressByte; dsimp only; split <;> rfl
  · rfl
  · contradiction

/-- A register write does not depend on the clock level. -/
theorem regWrite_sclIn (a : BitVec 8) (v : Half) (l : Bool) (s : State) :
    regWrite a v { s with sclIn := l } = { regWrite a v s with sclIn := l } := by
  unfold regWrite emit mute; dsimp only; split <;> rfl

/-- A memory write does not depend on the clock level. -/
theorem memWrite_sclIn (bank : Bool) (a : Half) (v : MemWord) (l : Bool) (s : State) :
    memWrite bank a v { s with sclIn := l } = { memWrite bank a v s with sclIn := l } := by
  unfold memWrite emit gainLeft gainRight; dsimp only; repeat' split
  all_goals rfl

/-- A command byte does not depend on the clock level. -/
theorem commandByte_sclIn (b : Byte) (l : Bool) (s : State) :
    commandByte b { s with sclIn := l } = (commandByte b s).map (fun t => { t with sclIn := l }) := by
  unfold commandByte runByte readControlByte writeRegisterByte writeMemoryByte memoryWordByte readRegisterByte readMemoryByte
  dsimp only
  repeat' split
  all_goals first
    | rfl
    | exact congrArg some (regWrite_sclIn _ _ l { s with val := withValLow s.val b })
    | exact congrArg some (memWrite_sclIn _ _ _ l { s with val := withValTop s.val b })

/-- `Operand(b)` does not depend on the clock level. -/
theorem operand_sclIn (b : Byte) (l : Bool) (s : State) : operand b { s with sclIn := l } = { operand b s with sclIn := l } := by
  unfold operand
  rw [commandByte_sclIn]
  cases commandByte b s <;> rfl

/-- `Interpret(b)` does not depend on the clock level. -/
theorem interpret_sclIn (b : Byte) (l : Bool) (s : State) : interpret b { s with sclIn := l } = { interpret b s with sclIn := l } := by
  unfold interpret
  dsimp only
  split
  · unfold select; repeat' split
    all_goals rfl
  · rfl
  · rfl
  · unfold dataRead; dsimp only; split <;> rfl
  · unfold dataWrite decodeCommandByte; dsimp only; split
    · exact operand_sclIn b l { s with cmd := pendingCommand b }
    · exact operand_sclIn b l s

/-- Completing a byte does not depend on the clock level. -/
theorem byteComplete_sclIn (l : Bool) (s : State) : byteComplete { s with sclIn := l } = { byteComplete s with sclIn := l } := by
  unfold byteComplete; dsimp only; split
  · unfold addressByte; dsimp only; split <;> rfl
  · exact interpret_sclIn _ _ (acknowledge s)
  · rfl

/-- A bit cell with a bit index (40_bus_protocol.md R148). -/
theorem bitCell_some {s : State} {i : Fin 8} (h : s.bitIdx = some i) :
    bitCell s = .next (if i.val = 0 then byteComplete { s with acc := setBit s.acc i s.sdaIn, sdaOut := driveLevel s i.val, bitIdx := none }
     else { s with acc := setBit s.acc i s.sdaIn, sdaOut := driveLevel s i.val, bitIdx := prevBitIdx i }) := by
  unfold bitCell
  rw [h]
  dsimp only
  split
  · rename_i h0; simp [prevBitIdx, h0]
  · rfl

/-- A clock rise in `Started` is a bit cell (40_bus_protocol.md R142). -/
theorem clockRise_started {s : State} (h : s.busState = .started) : clockRise s = bitCell s := by unfold clockRise; rw [h]

/-- The clock fall in `Ack2` (40_bus_protocol.md R157). -/
theorem ackFall_ack2 {u : State} (h : u.busState = .ack2) : ackFall u = { u with busState := .started, bitIdx := some 7, acc := 0#8 } := by
  unfold ackFall; rw [h]

/-- The clock fall in any other bus state (40_bus_protocol.md R156). -/
theorem ackFall_other {u : State} (h : u.busState ≠ .ack2) : ackFall u = u := by
  unfold ackFall; split
  · contradiction
  · rfl

/-- A data edge while the clock is low (40_bus_protocol.md R143). -/
theorem setData_low {s : State} (h : s.sclIn = false) (v : Bool) : execSetData v s = .next { s with sdaIn := v } := by
  unfold execSetData
  split
  · rename_i e; rw [e]
  · rw [h]; rfl

/-- A clock call in `Nak` (40_bus_protocol.md R159). -/
theorem nak_clock {s : State} (h : s.busState = .nak) (l : Bool) : execSetClock l s = .next { s with sclIn := l } := by
  unfold execSetClock clockRise ackRise ackFall
  split
  · rename_i e; rw [e]
  split
  · rename_i hl; rw [hl]; dsimp only; rw [h]
  · rename_i hl; simp only [Bool.not_eq_true] at hl; rw [hl]; dsimp only; rw [h]

/-- Where a session stands when its next byte has a format (30_encoding.md R103). -/
theorem byteFormat_cases {s : State} {f : ByteFormat} (h : byteFormat s = some f) :
   atByteBoundary s = true ∧
   match f with
   | .address => s.addrStatus = .unresolved
   | .selector => s.addrStatus = .valid ∧ s.subdest = .undefined
   | .command => s.addrStatus = .valid ∧ s.subdest = .dataWrite ∧ s.pos = 0
   | .read => s.addrStatus = .valid ∧ s.subdest = .dataRead
   | .control => s.addrStatus = .valid ∧ s.subdest = .control
   | .bad => s.addrStatus = .valid ∧ s.subdest = .bad := by
  unfold byteFormat at h
  split at h
  · rename_i hb
    refine ⟨hb, ?_⟩
    cases ha : s.addrStatus <;> simp only [ha] at h
    · cases h; trivial
    · cases hd : s.subdest <;> simp only [hd] at h
      · cases h; exact ⟨rfl, rfl⟩
      · cases h; exact ⟨rfl, rfl⟩
      · split at h <;> cases h
        exact ⟨rfl, rfl, by assumption⟩
      · cases h; exact ⟨rfl, rfl⟩
      · cases h; exact ⟨rfl, rfl⟩
    · cases h
  · cases h

/-- What a step is, by the input: nothing; an input event; a decoded row; an expansion into line calls. -/
theorem step_cases {s t : State} (h : step s = .next t) :
    (s.input = [] ∧ t = s) ∨
    (∃ k rest, s.input = .call k :: rest ∧ exec k.toInstr { s with input := rest } = .next t) ∨
    (∃ bs rest f i tail, s.input = .bytes bs :: rest ∧ byteFormat s = some f ∧ decodeBytes s.cfg f bs = .ok (i, tail) ∧
      exec i { s with input := requeue tail rest } = .next t) ∨
    (∃ bs rest inp, s.input = .bytes bs :: rest ∧ t = { s with input := inp }) := by
  unfold step at h
  split at h
  · rename_i hin; cases h; exact .inl ⟨hin, rfl⟩
  · rename_i item rest hin
    cases item with
    | call k => exact .inr (.inl ⟨k, rest, hin, h⟩)
    | bytes bs =>
      split at h
      · rename_i i tail hd
        simp only [decodeInput] at hd
        split at hd
        · rename_i f hf
          exact .inr (.inr (.inl ⟨bs, rest, f, i, tail, hin, hf, hd, h⟩))
        · cases hd
      · cases h
        refine .inr (.inr (.inr ⟨bs, rest, ?_⟩))
        cases bs with
        | nil => exact ⟨rest, hin, rfl⟩
        | cons b tail => exact ⟨_, hin, rfl⟩

/-- A run of operations in two parts. -/
theorem runInstrs_append (xs ys : List Instr) (s : State) :
    runInstrs (xs ++ ys) s = match runInstrs xs s with
      | .next t => runInstrs ys t
      | .fault r => .fault r
      | .refused r => .refused r := by
  induction xs generalizing s with
  | nil => rfl
  | cons x xs ih =>
    simp only [List.cons_append, runInstrs]
    cases exec x s with
    | next t => exact ih t
    | fault r => rfl
    | refused r => rfl

/-- A run of line calls whose first call gives a next state. -/
theorem runCalls_cons_next {k : Call} {ks : List Call} {s t : State} (h : exec k.toInstr s = .next t) :
    runCalls (k :: ks) s = runCalls ks t := by
  simp only [runCalls, List.map_cons, runInstrs, h]

end Sys2Proof.Machine
end

