-- ==== Sys2Proof/Laws/Gain.lean ====
section
/-! SUPPORT. The range of the gain table. -/

namespace Sys2Proof.Machine

/-- A lookup stays within the bounds of its rows. -/
theorem lookupDb_range (rows : List (Nat × Int)) (x : Nat) (h : ∀ r ∈ rows, -114 ≤ r.2 ∧ r.2 ≤ 6) :
    -114 ≤ lookupDb rows x ∧ lookupDb rows x ≤ 6 := by
  induction rows with
  | nil => simp [lookupDb]
  | cons r rows ih =>
    obtain ⟨u, d⟩ := r
    rw [lookupDb]
    split
    · exact h (u, d) (by simp)
    · exact ih fun r hr => h r (by simp [hr])

/-- The range of the conversion (42_dispatch_gain_mute.md R239). -/
theorem gainToDb_range (raw : MemWord) : -114 ≤ gainToDb raw ∧ gainToDb raw ≤ 6 :=
  lookupDb_range _ _ (by decide)

/-- A computed gain is in range (10_state.md R44). -/
theorem gainOf_inRange (raw : MemWord) : (gainOf raw).inRange = true := by
  unfold gainOf; split
  · rfl
  · simp [GainVal.inRange, gainToDb_range raw]

end Sys2Proof.Machine
end

