-- ==== Sys2Proof/Laws/PerInstr.lean ====
section
/-! SUPPORT. How many wire bytes each operation has (30_encoding.md R107), one lemma per constructor. -/

namespace Sys2Proof.Laws.EncodedLength

/-- The number of wire bytes of an operation: by R107 for the commands, one for the other byte rows, none for the operations
without a wire encoding. -/
def wireLength (i : Instr) : Nat :=
  match i.format with
  | none => 0
  | some .command =>
    match i with
    | .run _ _ => 2
    | .wrreg _ _ _ => 4
    | .wrmem _ _ n _ _ => 5 + 3 * n.toNat
    | _ => 1
  | some _ => 1

/-- A well-formed operation encodes to its number of wire bytes. -/
def Statement (i : Instr) : Prop :=
  ∀ c : Config.Params, wellFormed c i = true → (encode c i).length = wireLength i

theorem setClock (l : Bool) : Statement (.setClock l) := fun _ _ => rfl

theorem setData (l : Bool) : Statement (.setData l) := fun _ _ => rfl

theorem readClock : Statement .readClock := fun _ _ => rfl

theorem readData : Statement .readData := fun _ _ => rfl

theorem feedByte (b : Byte) : Statement (.feedByte b) := fun _ _ => rfl

theorem produce (n : Nat) : Statement (.produce n) := fun _ _ => rfl

theorem reset : Statement .reset := fun _ _ => rfl

theorem start : Statement .start := fun _ _ => rfl

theorem stop : Statement .stop := fun _ _ => rfl

theorem bitcell : Statement .bitcell := fun _ _ => rfl

theorem ackcell : Statement .ackcell := fun _ _ => rfl

theorem addrWrite (a : BitVec 7) : Statement (.addrWrite a) := fun _ _ => rfl

theorem addrRead (a : BitVec 7) : Statement (.addrRead a) := fun _ _ => rfl

theorem addrMismatch (b : Byte) : Statement (.addrMismatch b) := fun _ _ => rfl

theorem selDataWrite : Statement .selDataWrite := fun _ _ => rfl

theorem selDataRead : Statement .selDataRead := fun _ _ => rfl

theorem selControl : Statement .selControl := fun _ _ => rfl

theorem selBad (b : Byte) : Statement (.selBad b) := fun _ _ => rfl

theorem run (x : Bool) (a : BitVec 12) : Statement (.run x a) := fun _ _ => rfl

theorem rdctl (x : BitVec 4) : Statement (.rdctl x) := fun _ _ => rfl

theorem wrreg (r : BitVec 8) (x : BitVec 4) (v : Half) : Statement (.wrreg r x v) := fun _ _ => rfl

theorem wrmem (bank : Bool) (x : BitVec 4) (n a : Half) (ws : List WireWord) : Statement (.wrmem bank x n a ws) := by
  intro c h
  have hl : ws.length = n.toNat := by simpa [wellFormed] using h
  have hw : (ws.flatMap encodeWord).length = 3 * ws.length := by
    clear hl h
    induction ws with
    | nil => rfl
    | cons w ws ih => simp only [List.flatMap_cons, List.length_append, ih, encodeWord, List.length_cons, List.length_nil]; omega
  simp only [encode, wireLength, Instr.format, List.length_append, hw, hl, List.length_cons, List.length_nil]

theorem rdreg (x : BitVec 4) : Statement (.rdreg x) := fun _ _ => rfl

theorem rdmem (bank : Bool) (x : BitVec 4) : Statement (.rdmem bank x) := fun _ _ => rfl

theorem bad2 (x : BitVec 4) : Statement (.bad2 x) := fun _ _ => rfl

theorem bad47 (x : BitVec 6) : Statement (.bad47 x) := fun _ _ => rfl

theorem bad8 (x : BitVec 4) : Statement (.bad8 x) := fun _ _ => rfl

theorem badC (x : BitVec 4) : Statement (.badC x) := fun _ _ => rfl

theorem dataReadGroup (b : Byte) : Statement (.dataReadGroup b) := fun _ _ => rfl

theorem controlByte (b : Byte) : Statement (.controlByte b) := fun _ _ => rfl

theorem badByte (b : Byte) : Statement (.badByte b) := fun _ _ => rfl

theorem regWrite (a : BitVec 8) (v : Half) : Statement (.regWrite a v) := fun _ _ => rfl

theorem memWrite (bank : Bool) (a : Half) (v : MemWord) : Statement (.memWrite bank a v) := fun _ _ => rfl

theorem fill : Statement .fill := fun _ _ => rfl

end Sys2Proof.Laws.EncodedLength
end

