-- ==== Sys2Proof/Laws/Pipeline.lean ====
section
/-! SUPPORT. What feeding a byte, Fill and Produce can do, for any oracles. -/

namespace Sys2Proof.Machine

open Sys2Proof.Config

theorem SameBusSide.refl (s : State) : SameBusSide s s :=
  ⟨rfl, rfl, rfl, rfl, rfl, rfl, rfl, rfl, rfl, rfl, rfl, rfl, rfl, rfl, rfl, rfl, rfl, rfl, rfl, rfl, rfl⟩

theorem SameBusSide.trans {s t u : State} (h : SameBusSide s t) (k : SameBusSide t u) : SameBusSide s u := by
  unfold SameBusSide at *
  simp only [k, h, and_self]

/-- What the pipeline leaves: the bus side, the parameters, the input; it may append events. -/
structure PipelineFrame (s t : State) : Prop where
  bus : SameBusSide s t
  cfg : t.cfg = s.cfg
  input : t.input = s.input
  trace : ∃ es, t.trace = s.trace ++ es

/-- Doing nothing is within the frame. -/
theorem PipelineFrame.refl (s : State) : PipelineFrame s s := ⟨.refl s, rfl, rfl, [], (List.append_nil _).symm⟩

/-- The frame of two operations in turn. -/
theorem PipelineFrame.trans {s t u : State} (h : PipelineFrame s t) (k : PipelineFrame t u) : PipelineFrame s u := by
  obtain ⟨e1, h1⟩ := h.trace
  obtain ⟨e2, h2⟩ := k.trace
  exact ⟨h.bus.trans k.bus, k.cfg.trans h.cfg, k.input.trans h.input, e1 ++ e2, by rw [h2, h1, List.append_assoc]⟩

/-- FeedByte writes the ring, the frame flag and the demand (43_decode_pipeline.md R264). -/
theorem feedByte_eq (o : Oracles) (b : Byte) (s : State) : ∃ (d f : Bool), feedByte o b s = { s with
    ring := pushByte b s, frameBuffered := f, demand := d, trace := s.trace ++ [.demand d] } := by
  unfold feedByte emitDemand detect
  dsimp only
  split
  · exact ⟨_, s.frameBuffered, rfl⟩
  · exact ⟨_, _, rfl⟩

/-- The three cases of Fill (43_decode_pipeline.md R267 to R272). -/
theorem fill_cases (o : Oracles) (s : State) :
    (s.frameBuffered = false ∧ fill o s = { s with
      frameSync := false, demand := true, trace := s.trace ++ [.frameSync false, .demand true] }) ∨
    (s.frameBuffered = true ∧ (o.decode s.decodeCalls s.ring).samples = [] ∧ fill o s = { s with
      frameSync := false, trace := s.trace ++ [.frameSync false], decodeCalls := s.decodeCalls + 1
      ring := [], smp := [], smpRd := 0, frameBuffered := false, frameCounter := 0#32 }) ∨
    (s.frameBuffered = true ∧ (o.decode s.decodeCalls s.ring).samples ≠ [] ∧ fill o s = { s with
      trace := s.trace ++ [.frameSync false, .frameSync true, .demand true]
      frameSync := true, demand := true, decodeCalls := s.decodeCalls + 1
      smp := (o.decode s.decodeCalls s.ring).samples, smpRd := 0, ring := s.ring.drop (o.decode s.decodeCalls s.ring).consumed
      outRate := (o.decode s.decodeCalls s.ring).rate
      frameCounter := s.frameCounter + 1#32, frameBuffered := false }) := by
  cases hf : s.frameBuffered
  · refine .inl ⟨rfl, ?_⟩
    simp [fill, emitFrameSync, emitDemand, hf]
  · refine .inr ?_
    by_cases hd : (o.decode s.decodeCalls s.ring).samples = []
    · refine .inl ⟨rfl, hd, ?_⟩
      simp [fill, emitFrameSync, hf, decodeStep, hd, raiseDecodeFailure]
    · refine .inr ⟨rfl, hd, ?_⟩
      simp [fill, emitFrameSync, emitDemand, hf, decodeStep, hd, fillSuccess, demandRule]

/-- The frame of Fill. -/
theorem fill_frame (o : Oracles) (s : State) : PipelineFrame s (fill o s) := by
  rcases fill_cases o s with ⟨-, e⟩ | ⟨-, -, e⟩ | ⟨-, -, e⟩ <;> rw [e] <;>
    exact ⟨.refl s, rfl, rfl, _, rfl⟩

/-- The frame of one iteration's Fill. -/
theorem refill_frame (o : Oracles) (s : State) : PipelineFrame s (refill o s) := by
  unfold refill; split
  · exact fill_frame o s
  · exact .refl s

/-- After a Fill no frame is buffered (43_decode_pipeline.md R275). -/
theorem fill_noFrame (o : Oracles) (s : State) : (fill o s).frameBuffered = false := by
  rcases fill_cases o s with ⟨h, e⟩ | ⟨h1, h2, e⟩ | ⟨h1, h2, e⟩ <;> rw [e]
  exact h

/-- When the sample buffer is exhausted (10_state.md R48). -/
theorem exhausted_iff (s : State) : exhausted s = true ↔ s.smpRd = s.smp.length := by simp [exhausted]

/-- No Fill while the buffer holds a pair. -/
theorem refill_not {o : Oracles} {s : State} (h : s.smpRd ≠ s.smp.length) : refill o s = s := by
  unfold refill; rw [if_neg]; rw [exhausted_iff]; exact h

/-- A Fill when the buffer is exhausted. -/
theorem refill_exh {o : Oracles} {s : State} (h : s.smpRd = s.smp.length) : refill o s = fill o s := by
  unfold refill; rw [if_pos]; rw [exhausted_iff]; exact h

/-- No pair is wanted. -/
theorem produce_zero (o : Oracles) (s : State) : produce o 0 s = ([], s) := rfl

/-- Nothing to copy: the rest of the block is silence (43_decode_pipeline.md R276). -/
theorem produce_succ_none {o : Oracles} {n : Nat} {s : State} (h : (refill o s).smp[(refill o s).smpRd]? = none) :
    produce o (n + 1) s = (List.replicate (n + 1) silence, refill o s) := by
  rw [produce]; dsimp only; rw [h]

/-- One pair is copied (43_decode_pipeline.md R275). -/
theorem produce_succ_some {o : Oracles} {n : Nat} {s : State} {p : Stereo} (h : (refill o s).smp[(refill o s).smpRd]? = some p) :
    produce o (n + 1) s = (outPair o p :: (produce o n { refill o s with smpRd := (refill o s).smpRd + 1 }).1,
      (produce o n { refill o s with smpRd := (refill o s).smpRd + 1 }).2) := by
  rw [produce]; dsimp only; rw [h]

/-- While the buffer holds `k` pairs the block begins with them, and the rest is the block of the state after them
(43_decode_pipeline.md R275). -/
theorem produce_add (o : Oracles) (k m : Nat) {s : State} (h : s.smpRd + k ≤ s.smp.length) :
    produce o (k + m) s = (((s.smp.drop s.smpRd).take k).map (outPair o) ++ (produce o m { s with smpRd := s.smpRd + k }).1,
      (produce o m { s with smpRd := s.smpRd + k }).2) := by
  induction k generalizing s with
  | zero => simp
  | succ k ih =>
    have hr : refill o s = s := refill_not (by omega)
    have hlt : s.smpRd < s.smp.length := by omega
    have hp : (refill o s).smp[(refill o s).smpRd]? = some s.smp[s.smpRd] := by rw [hr]; exact List.getElem?_eq_getElem hlt
    rw [show k + 1 + m = (k + m) + 1 by omega, produce_succ_some hp, hr, ih (s := { s with smpRd := s.smpRd + 1 }) (by simp; omega),
      List.drop_eq_getElem_cons hlt]
    simp only [List.take_succ_cons, List.map_cons, Nat.add_assoc, Nat.add_comm 1 k, List.cons_append]

/-- With the buffer exhausted a Fill that gives pairs comes first, and the block is that of the state after it. -/
theorem produce_fill {o : Oracles} {m : Nat} {s : State} (h : s.smpRd = s.smp.length) (hm : 0 < m)
    (h' : (fill o s).smpRd ≠ (fill o s).smp.length) : produce o m s = produce o m (fill o s) := by
  obtain ⟨m, rfl⟩ : ∃ k, m = k + 1 := ⟨m - 1, by omega⟩
  rw [produce, produce]; dsimp only; rw [refill_exh h, refill_not h']

/-- The frame of Produce. -/
theorem produce_frame (o : Oracles) (n : Nat) (s : State) : PipelineFrame s (produce o n s).2 := by
  induction n generalizing s with
  | zero => exact .refl s
  | succ n ih =>
    cases h : (refill o s).smp[(refill o s).smpRd]? with
    | none => rw [produce_succ_none h]; exact refill_frame o s
    | some p =>
      rw [produce_succ_some h]
      have k := ih { refill o s with smpRd := (refill o s).smpRd + 1 }
      exact (refill_frame o s).trans ⟨k.bus, k.cfg, k.input, k.trace⟩

/-- The ring stays within its capacity (43_decode_pipeline.md R264). -/
theorem pushByte_length (b : Byte) {s : State} (h : s.ring.length ≤ s.cfg.ringCap) (hc : 1 ≤ s.cfg.ringCap) :
    (pushByte b s).length ≤ s.cfg.ringCap := by
  unfold pushByte; split <;> simp <;> omega

/-- The buffers are within their capacities (43_decode_pipeline.md R280 (e)). -/
structure Fits (s : State) : Prop where
  ring_fits : s.ring.length ≤ s.cfg.ringCap
  samples_fit : s.smp.length ≤ s.cfg.sampleCap
  cursor_inside : s.smpRd ≤ s.smp.length

/-- Fill keeps the buffers within their capacities. -/
theorem Fits.fill {o : Oracles} {s : State} (h : Fits s) (ho : o.Meets s.cfg.sampleCap) : Fits (fill o s) := by
  rcases fill_cases o s with ⟨-, e⟩ | ⟨-, -, e⟩ | ⟨-, hs, e⟩ <;> rw [e]
  · exact ⟨h.1, h.2, h.3⟩
  · exact ⟨Nat.zero_le _, Nat.zero_le _, Nat.le_refl _⟩
  · refine ⟨?_, (ho.1 _ _ hs).1, Nat.zero_le _⟩
    have := h.1
    simp only [List.length_drop]; omega

/-- One iteration's Fill keeps the buffers within their capacities. -/
theorem Fits.refill {o : Oracles} {s : State} (h : Fits s) (ho : o.Meets s.cfg.sampleCap) : Fits (refill o s) := by
  unfold Machine.refill; split
  · exact h.fill ho
  · exact h

end Sys2Proof.Machine
end

