-- ==== Sys2Proof/Laws/State.lean ====
section
/-! SUPPORT. One lemma per state element and shared update, so that no proof unfolds an update: each says what the element is after
the update. -/

namespace Sys2Proof.Machine

open Sys2Proof.Config

/-! ### `emit` -/

@[simp] theorem emit_sclIn (e : OutEvent) (s : State) : (emit e s).sclIn = s.sclIn := rfl
@[simp] theorem emit_sdaIn (e : OutEvent) (s : State) : (emit e s).sdaIn = s.sdaIn := rfl
@[simp] theorem emit_sclOut (e : OutEvent) (s : State) : (emit e s).sclOut = s.sclOut := rfl
@[simp] theorem emit_sdaOut (e : OutEvent) (s : State) : (emit e s).sdaOut = s.sdaOut := rfl
@[simp] theorem emit_busState (e : OutEvent) (s : State) : (emit e s).busState = s.busState := rfl
@[simp] theorem emit_acc (e : OutEvent) (s : State) : (emit e s).acc = s.acc := rfl
@[simp] theorem emit_bitIdx (e : OutEvent) (s : State) : (emit e s).bitIdx = s.bitIdx := rfl
@[simp] theorem emit_addrStatus (e : OutEvent) (s : State) : (emit e s).addrStatus = s.addrStatus := rfl
@[simp] theorem emit_subdest (e : OutEvent) (s : State) : (emit e s).subdest = s.subdest := rfl
@[simp] theorem emit_pos (e : OutEvent) (s : State) : (emit e s).pos = s.pos := rfl
@[simp] theorem emit_cmd (e : OutEvent) (s : State) : (emit e s).cmd = s.cmd := rfl
@[simp] theorem emit_adr (e : OutEvent) (s : State) : (emit e s).adr = s.adr := rfl
@[simp] theorem emit_val (e : OutEvent) (s : State) : (emit e s).val = s.val := rfl
@[simp] theorem emit_count (e : OutEvent) (s : State) : (emit e s).count = s.count := rfl
@[simp] theorem emit_bank (e : OutEvent) (s : State) : (emit e s).bank = s.bank := rfl
@[simp] theorem emit_payload (e : OutEvent) (s : State) : (emit e s).payload = s.payload := rfl
@[simp] theorem emit_gainLL (e : OutEvent) (s : State) : (emit e s).gainLL = s.gainLL := rfl
@[simp] theorem emit_gainRR (e : OutEvent) (s : State) : (emit e s).gainRR = s.gainRR := rfl
@[simp] theorem emit_muted (e : OutEvent) (s : State) : (emit e s).muted = s.muted := rfl
@[simp] theorem emit_frameCounter (e : OutEvent) (s : State) : (emit e s).frameCounter = s.frameCounter := rfl
@[simp] theorem emit_ring (e : OutEvent) (s : State) : (emit e s).ring = s.ring := rfl
@[simp] theorem emit_frameBuffered (e : OutEvent) (s : State) : (emit e s).frameBuffered = s.frameBuffered := rfl
@[simp] theorem emit_smp (e : OutEvent) (s : State) : (emit e s).smp = s.smp := rfl
@[simp] theorem emit_smpRd (e : OutEvent) (s : State) : (emit e s).smpRd = s.smpRd := rfl
@[simp] theorem emit_demand (e : OutEvent) (s : State) : (emit e s).demand = s.demand := rfl
@[simp] theorem emit_frameSync (e : OutEvent) (s : State) : (emit e s).frameSync = s.frameSync := rfl
@[simp] theorem emit_outRate (e : OutEvent) (s : State) : (emit e s).outRate = s.outRate := rfl
@[simp] theorem emit_outGainL (e : OutEvent) (s : State) : (emit e s).outGainL = s.outGainL := rfl
@[simp] theorem emit_outGainR (e : OutEvent) (s : State) : (emit e s).outGainR = s.outGainR := rfl
@[simp] theorem emit_cfg (e : OutEvent) (s : State) : (emit e s).cfg = s.cfg := rfl
@[simp] theorem emit_input (e : OutEvent) (s : State) : (emit e s).input = s.input := rfl
@[simp] theorem emit_trace (e : OutEvent) (s : State) : (emit e s).trace = s.trace ++ [e] := rfl
@[simp] theorem emit_ret (e : OutEvent) (s : State) : (emit e s).ret = s.ret := rfl
@[simp] theorem emit_decodeCalls (e : OutEvent) (s : State) : (emit e s).decodeCalls = s.decodeCalls := rfl

/-! ### `emitDemand` -/

@[simp] theorem emitDemand_sclIn (l : Bool) (s : State) : (emitDemand l s).sclIn = s.sclIn := rfl
@[simp] theorem emitDemand_sdaIn (l : Bool) (s : State) : (emitDemand l s).sdaIn = s.sdaIn := rfl
@[simp] theorem emitDemand_sclOut (l : Bool) (s : State) : (emitDemand l s).sclOut = s.sclOut := rfl
@[simp] theorem emitDemand_sdaOut (l : Bool) (s : State) : (emitDemand l s).sdaOut = s.sdaOut := rfl
@[simp] theorem emitDemand_busState (l : Bool) (s : State) : (emitDemand l s).busState = s.busState := rfl
@[simp] theorem emitDemand_acc (l : Bool) (s : State) : (emitDemand l s).acc = s.acc := rfl
@[simp] theorem emitDemand_bitIdx (l : Bool) (s : State) : (emitDemand l s).bitIdx = s.bitIdx := rfl
@[simp] theorem emitDemand_addrStatus (l : Bool) (s : State) : (emitDemand l s).addrStatus = s.addrStatus := rfl
@[simp] theorem emitDemand_subdest (l : Bool) (s : State) : (emitDemand l s).subdest = s.subdest := rfl
@[simp] theorem emitDemand_pos (l : Bool) (s : State) : (emitDemand l s).pos = s.pos := rfl
@[simp] theorem emitDemand_cmd (l : Bool) (s : State) : (emitDemand l s).cmd = s.cmd := rfl
@[simp] theorem emitDemand_adr (l : Bool) (s : State) : (emitDemand l s).adr = s.adr := rfl
@[simp] theorem emitDemand_val (l : Bool) (s : State) : (emitDemand l s).val = s.val := rfl
@[simp] theorem emitDemand_count (l : Bool) (s : State) : (emitDemand l s).count = s.count := rfl
@[simp] theorem emitDemand_bank (l : Bool) (s : State) : (emitDemand l s).bank = s.bank := rfl
@[simp] theorem emitDemand_payload (l : Bool) (s : State) : (emitDemand l s).payload = s.payload := rfl
@[simp] theorem emitDemand_gainLL (l : Bool) (s : State) : (emitDemand l s).gainLL = s.gainLL := rfl
@[simp] theorem emitDemand_gainRR (l : Bool) (s : State) : (emitDemand l s).gainRR = s.gainRR := rfl
@[simp] theorem emitDemand_muted (l : Bool) (s : State) : (emitDemand l s).muted = s.muted := rfl
@[simp] theorem emitDemand_frameCounter (l : Bool) (s : State) : (emitDemand l s).frameCounter = s.frameCounter := rfl
@[simp] theorem emitDemand_ring (l : Bool) (s : State) : (emitDemand l s).ring = s.ring := rfl
@[simp] theorem emitDemand_frameBuffered (l : Bool) (s : State) : (emitDemand l s).frameBuffered = s.frameBuffered := rfl
@[simp] theorem emitDemand_smp (l : Bool) (s : State) : (emitDemand l s).smp = s.smp := rfl
@[simp] theorem emitDemand_smpRd (l : Bool) (s : State) : (emitDemand l s).smpRd = s.smpRd := rfl
@[simp] theorem emitDemand_demand (l : Bool) (s : State) : (emitDemand l s).demand = l := rfl
@[simp] theorem emitDemand_frameSync (l : Bool) (s : State) : (emitDemand l s).frameSync = s.frameSync := rfl
@[simp] theorem emitDemand_outRate (l : Bool) (s : State) : (emitDemand l s).outRate = s.outRate := rfl
@[simp] theorem emitDemand_outGainL (l : Bool) (s : State) : (emitDemand l s).outGainL = s.outGainL := rfl
@[simp] theorem emitDemand_outGainR (l : Bool) (s : State) : (emitDemand l s).outGainR = s.outGainR := rfl
@[simp] theorem emitDemand_cfg (l : Bool) (s : State) : (emitDemand l s).cfg = s.cfg := rfl
@[simp] theorem emitDemand_input (l : Bool) (s : State) : (emitDemand l s).input = s.input := rfl
@[simp] theorem emitDemand_trace (l : Bool) (s : State) : (emitDemand l s).trace = s.trace ++ [.demand l] := rfl
@[simp] theorem emitDemand_ret (l : Bool) (s : State) : (emitDemand l s).ret = s.ret := rfl
@[simp] theorem emitDemand_decodeCalls (l : Bool) (s : State) : (emitDemand l s).decodeCalls = s.decodeCalls := rfl

/-! ### `emitFrameSync` -/

@[simp] theorem emitFrameSync_sclIn (l : Bool) (s : State) : (emitFrameSync l s).sclIn = s.sclIn := rfl
@[simp] theorem emitFrameSync_sdaIn (l : Bool) (s : State) : (emitFrameSync l s).sdaIn = s.sdaIn := rfl
@[simp] theorem emitFrameSync_sclOut (l : Bool) (s : State) : (emitFrameSync l s).sclOut = s.sclOut := rfl
@[simp] theorem emitFrameSync_sdaOut (l : Bool) (s : State) : (emitFrameSync l s).sdaOut = s.sdaOut := rfl
@[simp] theorem emitFrameSync_busState (l : Bool) (s : State) : (emitFrameSync l s).busState = s.busState := rfl
@[simp] theorem emitFrameSync_acc (l : Bool) (s : State) : (emitFrameSync l s).acc = s.acc := rfl
@[simp] theorem emitFrameSync_bitIdx (l : Bool) (s : State) : (emitFrameSync l s).bitIdx = s.bitIdx := rfl
@[simp] theorem emitFrameSync_addrStatus (l : Bool) (s : State) : (emitFrameSync l s).addrStatus = s.addrStatus := rfl
@[simp] theorem emitFrameSync_subdest (l : Bool) (s : State) : (emitFrameSync l s).subdest = s.subdest := rfl
@[simp] theorem emitFrameSync_pos (l : Bool) (s : State) : (emitFrameSync l s).pos = s.pos := rfl
@[simp] theorem emitFrameSync_cmd (l : Bool) (s : State) : (emitFrameSync l s).cmd = s.cmd := rfl
@[simp] theorem emitFrameSync_adr (l : Bool) (s : State) : (emitFrameSync l s).adr = s.adr := rfl
@[simp] theorem emitFrameSync_val (l : Bool) (s : State) : (emitFrameSync l s).val = s.val := rfl
@[simp] theorem emitFrameSync_count (l : Bool) (s : State) : (emitFrameSync l s).count = s.count := rfl
@[simp] theorem emitFrameSync_bank (l : Bool) (s : State) : (emitFrameSync l s).bank = s.bank := rfl
@[simp] theorem emitFrameSync_payload (l : Bool) (s : State) : (emitFrameSync l s).payload = s.payload := rfl
@[simp] theorem emitFrameSync_gainLL (l : Bool) (s : State) : (emitFrameSync l s).gainLL = s.gainLL := rfl
@[simp] theorem emitFrameSync_gainRR (l : Bool) (s : State) : (emitFrameSync l s).gainRR = s.gainRR := rfl
@[simp] theorem emitFrameSync_muted (l : Bool) (s : State) : (emitFrameSync l s).muted = s.muted := rfl
@[simp] theorem emitFrameSync_frameCounter (l : Bool) (s : State) : (emitFrameSync l s).frameCounter = s.frameCounter := rfl
@[simp] theorem emitFrameSync_ring (l : Bool) (s : State) : (emitFrameSync l s).ring = s.ring := rfl
@[simp] theorem emitFrameSync_frameBuffered (l : Bool) (s : State) : (emitFrameSync l s).frameBuffered = s.frameBuffered := rfl
@[simp] theorem emitFrameSync_smp (l : Bool) (s : State) : (emitFrameSync l s).smp = s.smp := rfl
@[simp] theorem emitFrameSync_smpRd (l : Bool) (s : State) : (emitFrameSync l s).smpRd = s.smpRd := rfl
@[simp] theorem emitFrameSync_demand (l : Bool) (s : State) : (emitFrameSync l s).demand = s.demand := rfl
@[simp] theorem emitFrameSync_frameSync (l : Bool) (s : State) : (emitFrameSync l s).frameSync = l := rfl
@[simp] theorem emitFrameSync_outRate (l : Bool) (s : State) : (emitFrameSync l s).outRate = s.outRate := rfl
@[simp] theorem emitFrameSync_outGainL (l : Bool) (s : State) : (emitFrameSync l s).outGainL = s.outGainL := rfl
@[simp] theorem emitFrameSync_outGainR (l : Bool) (s : State) : (emitFrameSync l s).outGainR = s.outGainR := rfl
@[simp] theorem emitFrameSync_cfg (l : Bool) (s : State) : (emitFrameSync l s).cfg = s.cfg := rfl
@[simp] theorem emitFrameSync_input (l : Bool) (s : State) : (emitFrameSync l s).input = s.input := rfl
@[simp] theorem emitFrameSync_trace (l : Bool) (s : State) : (emitFrameSync l s).trace = s.trace ++ [.frameSync l] := rfl
@[simp] theorem emitFrameSync_ret (l : Bool) (s : State) : (emitFrameSync l s).ret = s.ret := rfl
@[simp] theorem emitFrameSync_decodeCalls (l : Bool) (s : State) : (emitFrameSync l s).decodeCalls = s.decodeCalls := rfl

/-! ### `returnValue` -/

@[simp] theorem returnValue_sclIn (r : Ret) (s : State) : (returnValue r s).sclIn = s.sclIn := rfl
@[simp] theorem returnValue_sdaIn (r : Ret) (s : State) : (returnValue r s).sdaIn = s.sdaIn := rfl
@[simp] theorem returnValue_sclOut (r : Ret) (s : State) : (returnValue r s).sclOut = s.sclOut := rfl
@[simp] theorem returnValue_sdaOut (r : Ret) (s : State) : (returnValue r s).sdaOut = s.sdaOut := rfl
@[simp] theorem returnValue_busState (r : Ret) (s : State) : (returnValue r s).busState = s.busState := rfl
@[simp] theorem returnValue_acc (r : Ret) (s : State) : (returnValue r s).acc = s.acc := rfl
@[simp] theorem returnValue_bitIdx (r : Ret) (s : State) : (returnValue r s).bitIdx = s.bitIdx := rfl
@[simp] theorem returnValue_addrStatus (r : Ret) (s : State) : (returnValue r s).addrStatus = s.addrStatus := rfl
@[simp] theorem returnValue_subdest (r : Ret) (s : State) : (returnValue r s).subdest = s.subdest := rfl
@[simp] theorem returnValue_pos (r : Ret) (s : State) : (returnValue r s).pos = s.pos := rfl
@[simp] theorem returnValue_cmd (r : Ret) (s : State) : (returnValue r s).cmd = s.cmd := rfl
@[simp] theorem returnValue_adr (r : Ret) (s : State) : (returnValue r s).adr = s.adr := rfl
@[simp] theorem returnValue_val (r : Ret) (s : State) : (returnValue r s).val = s.val := rfl
@[simp] theorem returnValue_count (r : Ret) (s : State) : (returnValue r s).count = s.count := rfl
@[simp] theorem returnValue_bank (r : Ret) (s : State) : (returnValue r s).bank = s.bank := rfl
@[simp] theorem returnValue_payload (r : Ret) (s : State) : (returnValue r s).payload = s.payload := rfl
@[simp] theorem returnValue_gainLL (r : Ret) (s : State) : (returnValue r s).gainLL = s.gainLL := rfl
@[simp] theorem returnValue_gainRR (r : Ret) (s : State) : (returnValue r s).gainRR = s.gainRR := rfl
@[simp] theorem returnValue_muted (r : Ret) (s : State) : (returnValue r s).muted = s.muted := rfl
@[simp] theorem returnValue_frameCounter (r : Ret) (s : State) : (returnValue r s).frameCounter = s.frameCounter := rfl
@[simp] theorem returnValue_ring (r : Ret) (s : State) : (returnValue r s).ring = s.ring := rfl
@[simp] theorem returnValue_frameBuffered (r : Ret) (s : State) : (returnValue r s).frameBuffered = s.frameBuffered := rfl
@[simp] theorem returnValue_smp (r : Ret) (s : State) : (returnValue r s).smp = s.smp := rfl
@[simp] theorem returnValue_smpRd (r : Ret) (s : State) : (returnValue r s).smpRd = s.smpRd := rfl
@[simp] theorem returnValue_demand (r : Ret) (s : State) : (returnValue r s).demand = s.demand := rfl
@[simp] theorem returnValue_frameSync (r : Ret) (s : State) : (returnValue r s).frameSync = s.frameSync := rfl
@[simp] theorem returnValue_outRate (r : Ret) (s : State) : (returnValue r s).outRate = s.outRate := rfl
@[simp] theorem returnValue_outGainL (r : Ret) (s : State) : (returnValue r s).outGainL = s.outGainL := rfl
@[simp] theorem returnValue_outGainR (r : Ret) (s : State) : (returnValue r s).outGainR = s.outGainR := rfl
@[simp] theorem returnValue_cfg (r : Ret) (s : State) : (returnValue r s).cfg = s.cfg := rfl
@[simp] theorem returnValue_input (r : Ret) (s : State) : (returnValue r s).input = s.input := rfl
@[simp] theorem returnValue_trace (r : Ret) (s : State) : (returnValue r s).trace = s.trace := rfl
@[simp] theorem returnValue_ret (r : Ret) (s : State) : (returnValue r s).ret = r := rfl
@[simp] theorem returnValue_decodeCalls (r : Ret) (s : State) : (returnValue r s).decodeCalls = s.decodeCalls := rfl

/-! ### `enterNak` -/

@[simp] theorem enterNak_sclIn (s : State) : (enterNak s).sclIn = s.sclIn := rfl
@[simp] theorem enterNak_sdaIn (s : State) : (enterNak s).sdaIn = s.sdaIn := rfl
@[simp] theorem enterNak_sclOut (s : State) : (enterNak s).sclOut = s.sclOut := rfl
@[simp] theorem enterNak_sdaOut (s : State) : (enterNak s).sdaOut = releasedSda s := rfl
@[simp] theorem enterNak_busState (s : State) : (enterNak s).busState = .nak := rfl
@[simp] theorem enterNak_acc (s : State) : (enterNak s).acc = s.acc := rfl
@[simp] theorem enterNak_bitIdx (s : State) : (enterNak s).bitIdx = s.bitIdx := rfl
@[simp] theorem enterNak_addrStatus (s : State) : (enterNak s).addrStatus = s.addrStatus := rfl
@[simp] theorem enterNak_subdest (s : State) : (enterNak s).subdest = s.subdest := rfl
@[simp] theorem enterNak_pos (s : State) : (enterNak s).pos = s.pos := rfl
@[simp] theorem enterNak_cmd (s : State) : (enterNak s).cmd = s.cmd := rfl
@[simp] theorem enterNak_adr (s : State) : (enterNak s).adr = s.adr := rfl
@[simp] theorem enterNak_val (s : State) : (enterNak s).val = s.val := rfl
@[simp] theorem enterNak_count (s : State) : (enterNak s).count = s.count := rfl
@[simp] theorem enterNak_bank (s : State) : (enterNak s).bank = s.bank := rfl
@[simp] theorem enterNak_payload (s : State) : (enterNak s).payload = s.payload := rfl
@[simp] theorem enterNak_gainLL (s : State) : (enterNak s).gainLL = s.gainLL := rfl
@[simp] theorem enterNak_gainRR (s : State) : (enterNak s).gainRR = s.gainRR := rfl
@[simp] theorem enterNak_muted (s : State) : (enterNak s).muted = s.muted := rfl
@[simp] theorem enterNak_frameCounter (s : State) : (enterNak s).frameCounter = s.frameCounter := rfl
@[simp] theorem enterNak_ring (s : State) : (enterNak s).ring = s.ring := rfl
@[simp] theorem enterNak_frameBuffered (s : State) : (enterNak s).frameBuffered = s.frameBuffered := rfl
@[simp] theorem enterNak_smp (s : State) : (enterNak s).smp = s.smp := rfl
@[simp] theorem enterNak_smpRd (s : State) : (enterNak s).smpRd = s.smpRd := rfl
@[simp] theorem enterNak_demand (s : State) : (enterNak s).demand = s.demand := rfl
@[simp] theorem enterNak_frameSync (s : State) : (enterNak s).frameSync = s.frameSync := rfl
@[simp] theorem enterNak_outRate (s : State) : (enterNak s).outRate = s.outRate := rfl
@[simp] theorem enterNak_outGainL (s : State) : (enterNak s).outGainL = s.outGainL := rfl
@[simp] theorem enterNak_outGainR (s : State) : (enterNak s).outGainR = s.outGainR := rfl
@[simp] theorem enterNak_cfg (s : State) : (enterNak s).cfg = s.cfg := rfl
@[simp] theorem enterNak_input (s : State) : (enterNak s).input = s.input := rfl
@[simp] theorem enterNak_trace (s : State) : (enterNak s).trace = s.trace := rfl
@[simp] theorem enterNak_ret (s : State) : (enterNak s).ret = s.ret := rfl
@[simp] theorem enterNak_decodeCalls (s : State) : (enterNak s).decodeCalls = s.decodeCalls := rfl

/-! ### `raiseProtocolOverrun` -/

@[simp] theorem raiseProtocolOverrun_sclIn (s : State) : (raiseProtocolOverrun s).sclIn = s.sclIn := rfl
@[simp] theorem raiseProtocolOverrun_sdaIn (s : State) : (raiseProtocolOverrun s).sdaIn = s.sdaIn := rfl
@[simp] theorem raiseProtocolOverrun_sclOut (s : State) : (raiseProtocolOverrun s).sclOut = s.sclOut := rfl
@[simp] theorem raiseProtocolOverrun_sdaOut (s : State) : (raiseProtocolOverrun s).sdaOut = releasedSda s := rfl
@[simp] theorem raiseProtocolOverrun_busState (s : State) : (raiseProtocolOverrun s).busState = .nak := rfl
@[simp] theorem raiseProtocolOverrun_acc (s : State) : (raiseProtocolOverrun s).acc = s.acc := rfl
@[simp] theorem raiseProtocolOverrun_bitIdx (s : State) : (raiseProtocolOverrun s).bitIdx = s.bitIdx := rfl
@[simp] theorem raiseProtocolOverrun_addrStatus (s : State) : (raiseProtocolOverrun s).addrStatus = s.addrStatus := rfl
@[simp] theorem raiseProtocolOverrun_subdest (s : State) : (raiseProtocolOverrun s).subdest = s.subdest := rfl
@[simp] theorem raiseProtocolOverrun_pos (s : State) : (raiseProtocolOverrun s).pos = s.pos := rfl
@[simp] theorem raiseProtocolOverrun_cmd (s : State) : (raiseProtocolOverrun s).cmd = s.cmd := rfl
@[simp] theorem raiseProtocolOverrun_adr (s : State) : (raiseProtocolOverrun s).adr = s.adr := rfl
@[simp] theorem raiseProtocolOverrun_val (s : State) : (raiseProtocolOverrun s).val = s.val := rfl
@[simp] theorem raiseProtocolOverrun_count (s : State) : (raiseProtocolOverrun s).count = s.count := rfl
@[simp] theorem raiseProtocolOverrun_bank (s : State) : (raiseProtocolOverrun s).bank = s.bank := rfl
@[simp] theorem raiseProtocolOverrun_payload (s : State) : (raiseProtocolOverrun s).payload = s.payload := rfl
@[simp] theorem raiseProtocolOverrun_gainLL (s : State) : (raiseProtocolOverrun s).gainLL = s.gainLL := rfl
@[simp] theorem raiseProtocolOverrun_gainRR (s : State) : (raiseProtocolOverrun s).gainRR = s.gainRR := rfl
@[simp] theorem raiseProtocolOverrun_muted (s : State) : (raiseProtocolOverrun s).muted = s.muted := rfl
@[simp] theorem raiseProtocolOverrun_frameCounter (s : State) : (raiseProtocolOverrun s).frameCounter = s.frameCounter := rfl
@[simp] theorem raiseProtocolOverrun_ring (s : State) : (raiseProtocolOverrun s).ring = s.ring := rfl
@[simp] theorem raiseProtocolOverrun_frameBuffered (s : State) : (raiseProtocolOverrun s).frameBuffered = s.frameBuffered := rfl
@[simp] theorem raiseProtocolOverrun_smp (s : State) : (raiseProtocolOverrun s).smp = s.smp := rfl
@[simp] theorem raiseProtocolOverrun_smpRd (s : State) : (raiseProtocolOverrun s).smpRd = s.smpRd := rfl
@[simp] theorem raiseProtocolOverrun_demand (s : State) : (raiseProtocolOverrun s).demand = s.demand := rfl
@[simp] theorem raiseProtocolOverrun_frameSync (s : State) : (raiseProtocolOverrun s).frameSync = s.frameSync := rfl
@[simp] theorem raiseProtocolOverrun_outRate (s : State) : (raiseProtocolOverrun s).outRate = s.outRate := rfl
@[simp] theorem raiseProtocolOverrun_outGainL (s : State) : (raiseProtocolOverrun s).outGainL = s.outGainL := rfl
@[simp] theorem raiseProtocolOverrun_outGainR (s : State) : (raiseProtocolOverrun s).outGainR = s.outGainR := rfl
@[simp] theorem raiseProtocolOverrun_cfg (s : State) : (raiseProtocolOverrun s).cfg = s.cfg := rfl
@[simp] theorem raiseProtocolOverrun_input (s : State) : (raiseProtocolOverrun s).input = s.input := rfl
@[simp] theorem raiseProtocolOverrun_trace (s : State) : (raiseProtocolOverrun s).trace = s.trace := rfl
@[simp] theorem raiseProtocolOverrun_ret (s : State) : (raiseProtocolOverrun s).ret = s.ret := rfl
@[simp] theorem raiseProtocolOverrun_decodeCalls (s : State) : (raiseProtocolOverrun s).decodeCalls = s.decodeCalls := rfl

/-! ### `raiseDecodeFailure` -/

@[simp] theorem raiseDecodeFailure_sclIn (s : State) : (raiseDecodeFailure s).sclIn = s.sclIn := rfl
@[simp] theorem raiseDecodeFailure_sdaIn (s : State) : (raiseDecodeFailure s).sdaIn = s.sdaIn := rfl
@[simp] theorem raiseDecodeFailure_sclOut (s : State) : (raiseDecodeFailure s).sclOut = s.sclOut := rfl
@[simp] theorem raiseDecodeFailure_sdaOut (s : State) : (raiseDecodeFailure s).sdaOut = s.sdaOut := rfl
@[simp] theorem raiseDecodeFailure_busState (s : State) : (raiseDecodeFailure s).busState = s.busState := rfl
@[simp] theorem raiseDecodeFailure_acc (s : State) : (raiseDecodeFailure s).acc = s.acc := rfl
@[simp] theorem raiseDecodeFailure_bitIdx (s : State) : (raiseDecodeFailure s).bitIdx = s.bitIdx := rfl
@[simp] theorem raiseDecodeFailure_addrStatus (s : State) : (raiseDecodeFailure s).addrStatus = s.addrStatus := rfl
@[simp] theorem raiseDecodeFailure_subdest (s : State) : (raiseDecodeFailure s).subdest = s.subdest := rfl
@[simp] theorem raiseDecodeFailure_pos (s : State) : (raiseDecodeFailure s).pos = s.pos := rfl
@[simp] theorem raiseDecodeFailure_cmd (s : State) : (raiseDecodeFailure s).cmd = s.cmd := rfl
@[simp] theorem raiseDecodeFailure_adr (s : State) : (raiseDecodeFailure s).adr = s.adr := rfl
@[simp] theorem raiseDecodeFailure_val (s : State) : (raiseDecodeFailure s).val = s.val := rfl
@[simp] theorem raiseDecodeFailure_count (s : State) : (raiseDecodeFailure s).count = s.count := rfl
@[simp] theorem raiseDecodeFailure_bank (s : State) : (raiseDecodeFailure s).bank = s.bank := rfl
@[simp] theorem raiseDecodeFailure_payload (s : State) : (raiseDecodeFailure s).payload = s.payload := rfl
@[simp] theorem raiseDecodeFailure_gainLL (s : State) : (raiseDecodeFailure s).gainLL = s.gainLL := rfl
@[simp] theorem raiseDecodeFailure_gainRR (s : State) : (raiseDecodeFailure s).gainRR = s.gainRR := rfl
@[simp] theorem raiseDecodeFailure_muted (s : State) : (raiseDecodeFailure s).muted = s.muted := rfl
@[simp] theorem raiseDecodeFailure_frameCounter (s : State) : (raiseDecodeFailure s).frameCounter = 0#32 := rfl
@[simp] theorem raiseDecodeFailure_ring (s : State) : (raiseDecodeFailure s).ring = [] := rfl
@[simp] theorem raiseDecodeFailure_frameBuffered (s : State) : (raiseDecodeFailure s).frameBuffered = false := rfl
@[simp] theorem raiseDecodeFailure_smp (s : State) : (raiseDecodeFailure s).smp = [] := rfl
@[simp] theorem raiseDecodeFailure_smpRd (s : State) : (raiseDecodeFailure s).smpRd = 0 := rfl
@[simp] theorem raiseDecodeFailure_demand (s : State) : (raiseDecodeFailure s).demand = s.demand := rfl
@[simp] theorem raiseDecodeFailure_frameSync (s : State) : (raiseDecodeFailure s).frameSync = s.frameSync := rfl
@[simp] theorem raiseDecodeFailure_outRate (s : State) : (raiseDecodeFailure s).outRate = s.outRate := rfl
@[simp] theorem raiseDecodeFailure_outGainL (s : State) : (raiseDecodeFailure s).outGainL = s.outGainL := rfl
@[simp] theorem raiseDecodeFailure_outGainR (s : State) : (raiseDecodeFailure s).outGainR = s.outGainR := rfl
@[simp] theorem raiseDecodeFailure_cfg (s : State) : (raiseDecodeFailure s).cfg = s.cfg := rfl
@[simp] theorem raiseDecodeFailure_input (s : State) : (raiseDecodeFailure s).input = s.input := rfl
@[simp] theorem raiseDecodeFailure_trace (s : State) : (raiseDecodeFailure s).trace = s.trace := rfl
@[simp] theorem raiseDecodeFailure_ret (s : State) : (raiseDecodeFailure s).ret = s.ret := rfl
@[simp] theorem raiseDecodeFailure_decodeCalls (s : State) : (raiseDecodeFailure s).decodeCalls = s.decodeCalls := rfl

/-! ### `startCondition` -/

@[simp] theorem startCondition_sclIn (s : State) : (startCondition s).sclIn = s.sclIn := rfl
@[simp] theorem startCondition_sdaIn (s : State) : (startCondition s).sdaIn = s.sdaIn := rfl
@[simp] theorem startCondition_sclOut (s : State) : (startCondition s).sclOut = s.sclOut := rfl
@[simp] theorem startCondition_sdaOut (s : State) : (startCondition s).sdaOut = s.sdaOut := rfl
@[simp] theorem startCondition_busState (s : State) : (startCondition s).busState = .started := rfl
@[simp] theorem startCondition_acc (s : State) : (startCondition s).acc = 0#8 := rfl
@[simp] theorem startCondition_bitIdx (s : State) : (startCondition s).bitIdx = some 7 := rfl
@[simp] theorem startCondition_addrStatus (s : State) : (startCondition s).addrStatus = .unresolved := rfl
@[simp] theorem startCondition_subdest (s : State) : (startCondition s).subdest = s.subdest := rfl
@[simp] theorem startCondition_pos (s : State) : (startCondition s).pos = s.pos := rfl
@[simp] theorem startCondition_cmd (s : State) : (startCondition s).cmd = s.cmd := rfl
@[simp] theorem startCondition_adr (s : State) : (startCondition s).adr = s.adr := rfl
@[simp] theorem startCondition_val (s : State) : (startCondition s).val = s.val := rfl
@[simp] theorem startCondition_count (s : State) : (startCondition s).count = s.count := rfl
@[simp] theorem startCondition_bank (s : State) : (startCondition s).bank = s.bank := rfl
@[simp] theorem startCondition_payload (s : State) : (startCondition s).payload = s.payload := rfl
@[simp] theorem startCondition_gainLL (s : State) : (startCondition s).gainLL = s.gainLL := rfl
@[simp] theorem startCondition_gainRR (s : State) : (startCondition s).gainRR = s.gainRR := rfl
@[simp] theorem startCondition_muted (s : State) : (startCondition s).muted = s.muted := rfl
@[simp] theorem startCondition_frameCounter (s : State) : (startCondition s).frameCounter = s.frameCounter := rfl
@[simp] theorem startCondition_ring (s : State) : (startCondition s).ring = s.ring := rfl
@[simp] theorem startCondition_frameBuffered (s : State) : (startCondition s).frameBuffered = s.frameBuffered := rfl
@[simp] theorem startCondition_smp (s : State) : (startCondition s).smp = s.smp := rfl
@[simp] theorem startCondition_smpRd (s : State) : (startCondition s).smpRd = s.smpRd := rfl
@[simp] theorem startCondition_demand (s : State) : (startCondition s).demand = s.demand := rfl
@[simp] theorem startCondition_frameSync (s : State) : (startCondition s).frameSync = s.frameSync := rfl
@[simp] theorem startCondition_outRate (s : State) : (startCondition s).outRate = s.outRate := rfl
@[simp] theorem startCondition_outGainL (s : State) : (startCondition s).outGainL = s.outGainL := rfl
@[simp] theorem startCondition_outGainR (s : State) : (startCondition s).outGainR = s.outGainR := rfl
@[simp] theorem startCondition_cfg (s : State) : (startCondition s).cfg = s.cfg := rfl
@[simp] theorem startCondition_input (s : State) : (startCondition s).input = s.input := rfl
@[simp] theorem startCondition_trace (s : State) : (startCondition s).trace = s.trace := rfl
@[simp] theorem startCondition_ret (s : State) : (startCondition s).ret = s.ret := rfl
@[simp] theorem startCondition_decodeCalls (s : State) : (startCondition s).decodeCalls = s.decodeCalls := rfl

/-! ### `stopCondition` -/

@[simp] theorem stopCondition_sclIn (s : State) : (stopCondition s).sclIn = s.sclIn := rfl
@[simp] theorem stopCondition_sdaIn (s : State) : (stopCondition s).sdaIn = s.sdaIn := rfl
@[simp] theorem stopCondition_sclOut (s : State) : (stopCondition s).sclOut = s.sclOut := rfl
@[simp] theorem stopCondition_sdaOut (s : State) : (stopCondition s).sdaOut = releasedSda s := rfl
@[simp] theorem stopCondition_busState (s : State) : (stopCondition s).busState = .idle := rfl
@[simp] theorem stopCondition_acc (s : State) : (stopCondition s).acc = 0#8 := rfl
@[simp] theorem stopCondition_bitIdx (s : State) : (stopCondition s).bitIdx = some 7 := rfl
@[simp] theorem stopCondition_addrStatus (s : State) : (stopCondition s).addrStatus = .unresolved := rfl
@[simp] theorem stopCondition_subdest (s : State) : (stopCondition s).subdest = .undefined := rfl
@[simp] theorem stopCondition_pos (s : State) : (stopCondition s).pos = 0 := rfl
@[simp] theorem stopCondition_cmd (s : State) : (stopCondition s).cmd = .bad := rfl
@[simp] theorem stopCondition_adr (s : State) : (stopCondition s).adr = s.adr := rfl
@[simp] theorem stopCondition_val (s : State) : (stopCondition s).val = s.val := rfl
@[simp] theorem stopCondition_count (s : State) : (stopCondition s).count = s.count := rfl
@[simp] theorem stopCondition_bank (s : State) : (stopCondition s).bank = s.bank := rfl
@[simp] theorem stopCondition_payload (s : State) : (stopCondition s).payload = s.payload := rfl
@[simp] theorem stopCondition_gainLL (s : State) : (stopCondition s).gainLL = s.gainLL := rfl
@[simp] theorem stopCondition_gainRR (s : State) : (stopCondition s).gainRR = s.gainRR := rfl
@[simp] theorem stopCondition_muted (s : State) : (stopCondition s).muted = s.muted := rfl
@[simp] theorem stopCondition_frameCounter (s : State) : (stopCondition s).frameCounter = s.frameCounter := rfl
@[simp] theorem stopCondition_ring (s : State) : (stopCondition s).ring = s.ring := rfl
@[simp] theorem stopCondition_frameBuffered (s : State) : (stopCondition s).frameBuffered = s.frameBuffered := rfl
@[simp] theorem stopCondition_smp (s : State) : (stopCondition s).smp = s.smp := rfl
@[simp] theorem stopCondition_smpRd (s : State) : (stopCondition s).smpRd = s.smpRd := rfl
@[simp] theorem stopCondition_demand (s : State) : (stopCondition s).demand = s.demand := rfl
@[simp] theorem stopCondition_frameSync (s : State) : (stopCondition s).frameSync = s.frameSync := rfl
@[simp] theorem stopCondition_outRate (s : State) : (stopCondition s).outRate = s.outRate := rfl
@[simp] theorem stopCondition_outGainL (s : State) : (stopCondition s).outGainL = s.outGainL := rfl
@[simp] theorem stopCondition_outGainR (s : State) : (stopCondition s).outGainR = s.outGainR := rfl
@[simp] theorem stopCondition_cfg (s : State) : (stopCondition s).cfg = s.cfg := rfl
@[simp] theorem stopCondition_input (s : State) : (stopCondition s).input = s.input := rfl
@[simp] theorem stopCondition_trace (s : State) : (stopCondition s).trace = s.trace ++ [.transactionEnded] := rfl
@[simp] theorem stopCondition_ret (s : State) : (stopCondition s).ret = s.ret := rfl
@[simp] theorem stopCondition_decodeCalls (s : State) : (stopCondition s).decodeCalls = s.decodeCalls := rfl

/-! ### `acknowledge` -/

@[simp] theorem acknowledge_sclIn (s : State) : (acknowledge s).sclIn = s.sclIn := rfl
@[simp] theorem acknowledge_sdaIn (s : State) : (acknowledge s).sdaIn = s.sdaIn := rfl
@[simp] theorem acknowledge_sclOut (s : State) : (acknowledge s).sclOut = s.sclOut := rfl
@[simp] theorem acknowledge_sdaOut (s : State) : (acknowledge s).sdaOut = s.sdaOut := rfl
@[simp] theorem acknowledge_busState (s : State) : (acknowledge s).busState = .ack := rfl
@[simp] theorem acknowledge_acc (s : State) : (acknowledge s).acc = s.acc := rfl
@[simp] theorem acknowledge_bitIdx (s : State) : (acknowledge s).bitIdx = s.bitIdx := rfl
@[simp] theorem acknowledge_addrStatus (s : State) : (acknowledge s).addrStatus = s.addrStatus := rfl
@[simp] theorem acknowledge_subdest (s : State) : (acknowledge s).subdest = s.subdest := rfl
@[simp] theorem acknowledge_pos (s : State) : (acknowledge s).pos = s.pos := rfl
@[simp] theorem acknowledge_cmd (s : State) : (acknowledge s).cmd = s.cmd := rfl
@[simp] theorem acknowledge_adr (s : State) : (acknowledge s).adr = s.adr := rfl
@[simp] theorem acknowledge_val (s : State) : (acknowledge s).val = s.val := rfl
@[simp] theorem acknowledge_count (s : State) : (acknowledge s).count = s.count := rfl
@[simp] theorem acknowledge_bank (s : State) : (acknowledge s).bank = s.bank := rfl
@[simp] theorem acknowledge_payload (s : State) : (acknowledge s).payload = s.payload := rfl
@[simp] theorem acknowledge_gainLL (s : State) : (acknowledge s).gainLL = s.gainLL := rfl
@[simp] theorem acknowledge_gainRR (s : State) : (acknowledge s).gainRR = s.gainRR := rfl
@[simp] theorem acknowledge_muted (s : State) : (acknowledge s).muted = s.muted := rfl
@[simp] theorem acknowledge_frameCounter (s : State) : (acknowledge s).frameCounter = s.frameCounter := rfl
@[simp] theorem acknowledge_ring (s : State) : (acknowledge s).ring = s.ring := rfl
@[simp] theorem acknowledge_frameBuffered (s : State) : (acknowledge s).frameBuffered = s.frameBuffered := rfl
@[simp] theorem acknowledge_smp (s : State) : (acknowledge s).smp = s.smp := rfl
@[simp] theorem acknowledge_smpRd (s : State) : (acknowledge s).smpRd = s.smpRd := rfl
@[simp] theorem acknowledge_demand (s : State) : (acknowledge s).demand = s.demand := rfl
@[simp] theorem acknowledge_frameSync (s : State) : (acknowledge s).frameSync = s.frameSync := rfl
@[simp] theorem acknowledge_outRate (s : State) : (acknowledge s).outRate = s.outRate := rfl
@[simp] theorem acknowledge_outGainL (s : State) : (acknowledge s).outGainL = s.outGainL := rfl
@[simp] theorem acknowledge_outGainR (s : State) : (acknowledge s).outGainR = s.outGainR := rfl
@[simp] theorem acknowledge_cfg (s : State) : (acknowledge s).cfg = s.cfg := rfl
@[simp] theorem acknowledge_input (s : State) : (acknowledge s).input = s.input := rfl
@[simp] theorem acknowledge_trace (s : State) : (acknowledge s).trace = s.trace := rfl
@[simp] theorem acknowledge_ret (s : State) : (acknowledge s).ret = s.ret := rfl
@[simp] theorem acknowledge_decodeCalls (s : State) : (acknowledge s).decodeCalls = s.decodeCalls := rfl

/-! ### `clockIn` -/

@[simp] theorem clockIn_sclIn (b : Byte) (s : State) : (clockIn b s).sclIn = false := rfl
@[simp] theorem clockIn_sdaIn (b : Byte) (s : State) : (clockIn b s).sdaIn = b.getLsbD 0 := rfl
@[simp] theorem clockIn_sclOut (b : Byte) (s : State) : (clockIn b s).sclOut = s.sclOut := rfl
@[simp] theorem clockIn_sdaOut (b : Byte) (s : State) : (clockIn b s).sdaOut = driveLevel s 0 := rfl
@[simp] theorem clockIn_busState (b : Byte) (s : State) : (clockIn b s).busState = s.busState := rfl
@[simp] theorem clockIn_acc (b : Byte) (s : State) : (clockIn b s).acc = b := rfl
@[simp] theorem clockIn_bitIdx (b : Byte) (s : State) : (clockIn b s).bitIdx = none := rfl
@[simp] theorem clockIn_addrStatus (b : Byte) (s : State) : (clockIn b s).addrStatus = s.addrStatus := rfl
@[simp] theorem clockIn_subdest (b : Byte) (s : State) : (clockIn b s).subdest = s.subdest := rfl
@[simp] theorem clockIn_pos (b : Byte) (s : State) : (clockIn b s).pos = s.pos := rfl
@[simp] theorem clockIn_cmd (b : Byte) (s : State) : (clockIn b s).cmd = s.cmd := rfl
@[simp] theorem clockIn_adr (b : Byte) (s : State) : (clockIn b s).adr = s.adr := rfl
@[simp] theorem clockIn_val (b : Byte) (s : State) : (clockIn b s).val = s.val := rfl
@[simp] theorem clockIn_count (b : Byte) (s : State) : (clockIn b s).count = s.count := rfl
@[simp] theorem clockIn_bank (b : Byte) (s : State) : (clockIn b s).bank = s.bank := rfl
@[simp] theorem clockIn_payload (b : Byte) (s : State) : (clockIn b s).payload = s.payload := rfl
@[simp] theorem clockIn_gainLL (b : Byte) (s : State) : (clockIn b s).gainLL = s.gainLL := rfl
@[simp] theorem clockIn_gainRR (b : Byte) (s : State) : (clockIn b s).gainRR = s.gainRR := rfl
@[simp] theorem clockIn_muted (b : Byte) (s : State) : (clockIn b s).muted = s.muted := rfl
@[simp] theorem clockIn_frameCounter (b : Byte) (s : State) : (clockIn b s).frameCounter = s.frameCounter := rfl
@[simp] theorem clockIn_ring (b : Byte) (s : State) : (clockIn b s).ring = s.ring := rfl
@[simp] theorem clockIn_frameBuffered (b : Byte) (s : State) : (clockIn b s).frameBuffered = s.frameBuffered := rfl
@[simp] theorem clockIn_smp (b : Byte) (s : State) : (clockIn b s).smp = s.smp := rfl
@[simp] theorem clockIn_smpRd (b : Byte) (s : State) : (clockIn b s).smpRd = s.smpRd := rfl
@[simp] theorem clockIn_demand (b : Byte) (s : State) : (clockIn b s).demand = s.demand := rfl
@[simp] theorem clockIn_frameSync (b : Byte) (s : State) : (clockIn b s).frameSync = s.frameSync := rfl
@[simp] theorem clockIn_outRate (b : Byte) (s : State) : (clockIn b s).outRate = s.outRate := rfl
@[simp] theorem clockIn_outGainL (b : Byte) (s : State) : (clockIn b s).outGainL = s.outGainL := rfl
@[simp] theorem clockIn_outGainR (b : Byte) (s : State) : (clockIn b s).outGainR = s.outGainR := rfl
@[simp] theorem clockIn_cfg (b : Byte) (s : State) : (clockIn b s).cfg = s.cfg := rfl
@[simp] theorem clockIn_input (b : Byte) (s : State) : (clockIn b s).input = s.input := rfl
@[simp] theorem clockIn_trace (b : Byte) (s : State) : (clockIn b s).trace = s.trace := rfl
@[simp] theorem clockIn_ret (b : Byte) (s : State) : (clockIn b s).ret = s.ret := rfl
@[simp] theorem clockIn_decodeCalls (b : Byte) (s : State) : (clockIn b s).decodeCalls = s.decodeCalls := rfl

/-! ### `clockPast` -/

@[simp] theorem clockPast_sclIn (b : Byte) (s : State) : (clockPast b s).sclIn = false := rfl
@[simp] theorem clockPast_sdaIn (b : Byte) (s : State) : (clockPast b s).sdaIn = b.getLsbD 0 := rfl
@[simp] theorem clockPast_sclOut (b : Byte) (s : State) : (clockPast b s).sclOut = s.sclOut := rfl
@[simp] theorem clockPast_sdaOut (b : Byte) (s : State) : (clockPast b s).sdaOut = s.sdaOut := rfl
@[simp] theorem clockPast_busState (b : Byte) (s : State) : (clockPast b s).busState = s.busState := rfl
@[simp] theorem clockPast_acc (b : Byte) (s : State) : (clockPast b s).acc = s.acc := rfl
@[simp] theorem clockPast_bitIdx (b : Byte) (s : State) : (clockPast b s).bitIdx = s.bitIdx := rfl
@[simp] theorem clockPast_addrStatus (b : Byte) (s : State) : (clockPast b s).addrStatus = s.addrStatus := rfl
@[simp] theorem clockPast_subdest (b : Byte) (s : State) : (clockPast b s).subdest = s.subdest := rfl
@[simp] theorem clockPast_pos (b : Byte) (s : State) : (clockPast b s).pos = s.pos := rfl
@[simp] theorem clockPast_cmd (b : Byte) (s : State) : (clockPast b s).cmd = s.cmd := rfl
@[simp] theorem clockPast_adr (b : Byte) (s : State) : (clockPast b s).adr = s.adr := rfl
@[simp] theorem clockPast_val (b : Byte) (s : State) : (clockPast b s).val = s.val := rfl
@[simp] theorem clockPast_count (b : Byte) (s : State) : (clockPast b s).count = s.count := rfl
@[simp] theorem clockPast_bank (b : Byte) (s : State) : (clockPast b s).bank = s.bank := rfl
@[simp] theorem clockPast_payload (b : Byte) (s : State) : (clockPast b s).payload = s.payload := rfl
@[simp] theorem clockPast_gainLL (b : Byte) (s : State) : (clockPast b s).gainLL = s.gainLL := rfl
@[simp] theorem clockPast_gainRR (b : Byte) (s : State) : (clockPast b s).gainRR = s.gainRR := rfl
@[simp] theorem clockPast_muted (b : Byte) (s : State) : (clockPast b s).muted = s.muted := rfl
@[simp] theorem clockPast_frameCounter (b : Byte) (s : State) : (clockPast b s).frameCounter = s.frameCounter := rfl
@[simp] theorem clockPast_ring (b : Byte) (s : State) : (clockPast b s).ring = s.ring := rfl
@[simp] theorem clockPast_frameBuffered (b : Byte) (s : State) : (clockPast b s).frameBuffered = s.frameBuffered := rfl
@[simp] theorem clockPast_smp (b : Byte) (s : State) : (clockPast b s).smp = s.smp := rfl
@[simp] theorem clockPast_smpRd (b : Byte) (s : State) : (clockPast b s).smpRd = s.smpRd := rfl
@[simp] theorem clockPast_demand (b : Byte) (s : State) : (clockPast b s).demand = s.demand := rfl
@[simp] theorem clockPast_frameSync (b : Byte) (s : State) : (clockPast b s).frameSync = s.frameSync := rfl
@[simp] theorem clockPast_outRate (b : Byte) (s : State) : (clockPast b s).outRate = s.outRate := rfl
@[simp] theorem clockPast_outGainL (b : Byte) (s : State) : (clockPast b s).outGainL = s.outGainL := rfl
@[simp] theorem clockPast_outGainR (b : Byte) (s : State) : (clockPast b s).outGainR = s.outGainR := rfl
@[simp] theorem clockPast_cfg (b : Byte) (s : State) : (clockPast b s).cfg = s.cfg := rfl
@[simp] theorem clockPast_input (b : Byte) (s : State) : (clockPast b s).input = s.input := rfl
@[simp] theorem clockPast_trace (b : Byte) (s : State) : (clockPast b s).trace = s.trace := rfl
@[simp] theorem clockPast_ret (b : Byte) (s : State) : (clockPast b s).ret = s.ret := rfl
@[simp] theorem clockPast_decodeCalls (b : Byte) (s : State) : (clockPast b s).decodeCalls = s.decodeCalls := rfl

/-! ### `gainLeft` -/

@[simp] theorem gainLeft_sclIn (v : MemWord) (s : State) : (gainLeft v s).sclIn = s.sclIn := rfl
@[simp] theorem gainLeft_sdaIn (v : MemWord) (s : State) : (gainLeft v s).sdaIn = s.sdaIn := rfl
@[simp] theorem gainLeft_sclOut (v : MemWord) (s : State) : (gainLeft v s).sclOut = s.sclOut := rfl
@[simp] theorem gainLeft_sdaOut (v : MemWord) (s : State) : (gainLeft v s).sdaOut = s.sdaOut := rfl
@[simp] theorem gainLeft_busState (v : MemWord) (s : State) : (gainLeft v s).busState = s.busState := rfl
@[simp] theorem gainLeft_acc (v : MemWord) (s : State) : (gainLeft v s).acc = s.acc := rfl
@[simp] theorem gainLeft_bitIdx (v : MemWord) (s : State) : (gainLeft v s).bitIdx = s.bitIdx := rfl
@[simp] theorem gainLeft_addrStatus (v : MemWord) (s : State) : (gainLeft v s).addrStatus = s.addrStatus := rfl
@[simp] theorem gainLeft_subdest (v : MemWord) (s : State) : (gainLeft v s).subdest = s.subdest := rfl
@[simp] theorem gainLeft_pos (v : MemWord) (s : State) : (gainLeft v s).pos = s.pos := rfl
@[simp] theorem gainLeft_cmd (v : MemWord) (s : State) : (gainLeft v s).cmd = s.cmd := rfl
@[simp] theorem gainLeft_adr (v : MemWord) (s : State) : (gainLeft v s).adr = s.adr := rfl
@[simp] theorem gainLeft_val (v : MemWord) (s : State) : (gainLeft v s).val = s.val := rfl
@[simp] theorem gainLeft_count (v : MemWord) (s : State) : (gainLeft v s).count = s.count := rfl
@[simp] theorem gainLeft_bank (v : MemWord) (s : State) : (gainLeft v s).bank = s.bank := rfl
@[simp] theorem gainLeft_payload (v : MemWord) (s : State) : (gainLeft v s).payload = s.payload := rfl
@[simp] theorem gainLeft_gainLL (v : MemWord) (s : State) : (gainLeft v s).gainLL = gainOf v := rfl
@[simp] theorem gainLeft_gainRR (v : MemWord) (s : State) : (gainLeft v s).gainRR = s.gainRR := rfl
@[simp] theorem gainLeft_muted (v : MemWord) (s : State) : (gainLeft v s).muted = s.muted := rfl
@[simp] theorem gainLeft_frameCounter (v : MemWord) (s : State) : (gainLeft v s).frameCounter = s.frameCounter := rfl
@[simp] theorem gainLeft_ring (v : MemWord) (s : State) : (gainLeft v s).ring = s.ring := rfl
@[simp] theorem gainLeft_frameBuffered (v : MemWord) (s : State) : (gainLeft v s).frameBuffered = s.frameBuffered := rfl
@[simp] theorem gainLeft_smp (v : MemWord) (s : State) : (gainLeft v s).smp = s.smp := rfl
@[simp] theorem gainLeft_smpRd (v : MemWord) (s : State) : (gainLeft v s).smpRd = s.smpRd := rfl
@[simp] theorem gainLeft_demand (v : MemWord) (s : State) : (gainLeft v s).demand = s.demand := rfl
@[simp] theorem gainLeft_frameSync (v : MemWord) (s : State) : (gainLeft v s).frameSync = s.frameSync := rfl
@[simp] theorem gainLeft_outRate (v : MemWord) (s : State) : (gainLeft v s).outRate = s.outRate := rfl
@[simp] theorem gainLeft_outGainL (v : MemWord) (s : State) : (gainLeft v s).outGainL = if s.muted then s.outGainL else gainOf v := rfl
@[simp] theorem gainLeft_outGainR (v : MemWord) (s : State) : (gainLeft v s).outGainR = s.outGainR := rfl
@[simp] theorem gainLeft_cfg (v : MemWord) (s : State) : (gainLeft v s).cfg = s.cfg := rfl
@[simp] theorem gainLeft_input (v : MemWord) (s : State) : (gainLeft v s).input = s.input := rfl
@[simp] theorem gainLeft_trace (v : MemWord) (s : State) : (gainLeft v s).trace = s.trace := rfl
@[simp] theorem gainLeft_ret (v : MemWord) (s : State) : (gainLeft v s).ret = s.ret := rfl
@[simp] theorem gainLeft_decodeCalls (v : MemWord) (s : State) : (gainLeft v s).decodeCalls = s.decodeCalls := rfl

/-! ### `gainRight` -/

@[simp] theorem gainRight_sclIn (v : MemWord) (s : State) : (gainRight v s).sclIn = s.sclIn := rfl
@[simp] theorem gainRight_sdaIn (v : MemWord) (s : State) : (gainRight v s).sdaIn = s.sdaIn := rfl
@[simp] theorem gainRight_sclOut (v : MemWord) (s : State) : (gainRight v s).sclOut = s.sclOut := rfl
@[simp] theorem gainRight_sdaOut (v : MemWord) (s : State) : (gainRight v s).sdaOut = s.sdaOut := rfl
@[simp] theorem gainRight_busState (v : MemWord) (s : State) : (gainRight v s).busState = s.busState := rfl
@[simp] theorem gainRight_acc (v : MemWord) (s : State) : (gainRight v s).acc = s.acc := rfl
@[simp] theorem gainRight_bitIdx (v : MemWord) (s : State) : (gainRight v s).bitIdx = s.bitIdx := rfl
@[simp] theorem gainRight_addrStatus (v : MemWord) (s : State) : (gainRight v s).addrStatus = s.addrStatus := rfl
@[simp] theorem gainRight_subdest (v : MemWord) (s : State) : (gainRight v s).subdest = s.subdest := rfl
@[simp] theorem gainRight_pos (v : MemWord) (s : State) : (gainRight v s).pos = s.pos := rfl
@[simp] theorem gainRight_cmd (v : MemWord) (s : State) : (gainRight v s).cmd = s.cmd := rfl
@[simp] theorem gainRight_adr (v : MemWord) (s : State) : (gainRight v s).adr = s.adr := rfl
@[simp] theorem gainRight_val (v : MemWord) (s : State) : (gainRight v s).val = s.val := rfl
@[simp] theorem gainRight_count (v : MemWord) (s : State) : (gainRight v s).count = s.count := rfl
@[simp] theorem gainRight_bank (v : MemWord) (s : State) : (gainRight v s).bank = s.bank := rfl
@[simp] theorem gainRight_payload (v : MemWord) (s : State) : (gainRight v s).payload = s.payload := rfl
@[simp] theorem gainRight_gainLL (v : MemWord) (s : State) : (gainRight v s).gainLL = s.gainLL := rfl
@[simp] theorem gainRight_gainRR (v : MemWord) (s : State) : (gainRight v s).gainRR = gainOf v := rfl
@[simp] theorem gainRight_muted (v : MemWord) (s : State) : (gainRight v s).muted = s.muted := rfl
@[simp] theorem gainRight_frameCounter (v : MemWord) (s : State) : (gainRight v s).frameCounter = s.frameCounter := rfl
@[simp] theorem gainRight_ring (v : MemWord) (s : State) : (gainRight v s).ring = s.ring := rfl
@[simp] theorem gainRight_frameBuffered (v : MemWord) (s : State) : (gainRight v s).frameBuffered = s.frameBuffered := rfl
@[simp] theorem gainRight_smp (v : MemWord) (s : State) : (gainRight v s).smp = s.smp := rfl
@[simp] theorem gainRight_smpRd (v : MemWord) (s : State) : (gainRight v s).smpRd = s.smpRd := rfl
@[simp] theorem gainRight_demand (v : MemWord) (s : State) : (gainRight v s).demand = s.demand := rfl
@[simp] theorem gainRight_frameSync (v : MemWord) (s : State) : (gainRight v s).frameSync = s.frameSync := rfl
@[simp] theorem gainRight_outRate (v : MemWord) (s : State) : (gainRight v s).outRate = s.outRate := rfl
@[simp] theorem gainRight_outGainL (v : MemWord) (s : State) : (gainRight v s).outGainL = s.outGainL := rfl
@[simp] theorem gainRight_outGainR (v : MemWord) (s : State) : (gainRight v s).outGainR = if s.muted then s.outGainR else gainOf v := rfl
@[simp] theorem gainRight_cfg (v : MemWord) (s : State) : (gainRight v s).cfg = s.cfg := rfl
@[simp] theorem gainRight_input (v : MemWord) (s : State) : (gainRight v s).input = s.input := rfl
@[simp] theorem gainRight_trace (v : MemWord) (s : State) : (gainRight v s).trace = s.trace := rfl
@[simp] theorem gainRight_ret (v : MemWord) (s : State) : (gainRight v s).ret = s.ret := rfl
@[simp] theorem gainRight_decodeCalls (v : MemWord) (s : State) : (gainRight v s).decodeCalls = s.decodeCalls := rfl

/-! ### `mute` -/

@[simp] theorem mute_sclIn (v : Half) (s : State) : (mute v s).sclIn = s.sclIn := rfl
@[simp] theorem mute_sdaIn (v : Half) (s : State) : (mute v s).sdaIn = s.sdaIn := rfl
@[simp] theorem mute_sclOut (v : Half) (s : State) : (mute v s).sclOut = s.sclOut := rfl
@[simp] theorem mute_sdaOut (v : Half) (s : State) : (mute v s).sdaOut = s.sdaOut := rfl
@[simp] theorem mute_busState (v : Half) (s : State) : (mute v s).busState = s.busState := rfl
@[simp] theorem mute_acc (v : Half) (s : State) : (mute v s).acc = s.acc := rfl
@[simp] theorem mute_bitIdx (v : Half) (s : State) : (mute v s).bitIdx = s.bitIdx := rfl
@[simp] theorem mute_addrStatus (v : Half) (s : State) : (mute v s).addrStatus = s.addrStatus := rfl
@[simp] theorem mute_subdest (v : Half) (s : State) : (mute v s).subdest = s.subdest := rfl
@[simp] theorem mute_pos (v : Half) (s : State) : (mute v s).pos = s.pos := rfl
@[simp] theorem mute_cmd (v : Half) (s : State) : (mute v s).cmd = s.cmd := rfl
@[simp] theorem mute_adr (v : Half) (s : State) : (mute v s).adr = s.adr := rfl
@[simp] theorem mute_val (v : Half) (s : State) : (mute v s).val = s.val := rfl
@[simp] theorem mute_count (v : Half) (s : State) : (mute v s).count = s.count := rfl
@[simp] theorem mute_bank (v : Half) (s : State) : (mute v s).bank = s.bank := rfl
@[simp] theorem mute_payload (v : Half) (s : State) : (mute v s).payload = s.payload := rfl
@[simp] theorem mute_gainLL (v : Half) (s : State) : (mute v s).gainLL = s.gainLL := rfl
@[simp] theorem mute_gainRR (v : Half) (s : State) : (mute v s).gainRR = s.gainRR := rfl
@[simp] theorem mute_muted (v : Half) (s : State) : (mute v s).muted = (v == 1#16) := rfl
@[simp] theorem mute_frameCounter (v : Half) (s : State) : (mute v s).frameCounter = s.frameCounter := rfl
@[simp] theorem mute_ring (v : Half) (s : State) : (mute v s).ring = s.ring := rfl
@[simp] theorem mute_frameBuffered (v : Half) (s : State) : (mute v s).frameBuffered = s.frameBuffered := rfl
@[simp] theorem mute_smp (v : Half) (s : State) : (mute v s).smp = s.smp := rfl
@[simp] theorem mute_smpRd (v : Half) (s : State) : (mute v s).smpRd = s.smpRd := rfl
@[simp] theorem mute_demand (v : Half) (s : State) : (mute v s).demand = s.demand := rfl
@[simp] theorem mute_frameSync (v : Half) (s : State) : (mute v s).frameSync = s.frameSync := rfl
@[simp] theorem mute_outRate (v : Half) (s : State) : (mute v s).outRate = s.outRate := rfl
@[simp] theorem mute_outGainL (v : Half) (s : State) : (mute v s).outGainL = if v = 1#16 then .zero else s.gainLL := rfl
@[simp] theorem mute_outGainR (v : Half) (s : State) : (mute v s).outGainR = if v = 1#16 then .zero else s.gainRR := rfl
@[simp] theorem mute_cfg (v : Half) (s : State) : (mute v s).cfg = s.cfg := rfl
@[simp] theorem mute_input (v : Half) (s : State) : (mute v s).input = s.input := rfl
@[simp] theorem mute_trace (v : Half) (s : State) : (mute v s).trace = s.trace := rfl
@[simp] theorem mute_ret (v : Half) (s : State) : (mute v s).ret = s.ret := rfl
@[simp] theorem mute_decodeCalls (v : Half) (s : State) : (mute v s).decodeCalls = s.decodeCalls := rfl

/-! ### `detect` -/

@[simp] theorem detect_sclIn (o : Oracles) (s : State) : (detect o s).sclIn = s.sclIn := rfl
@[simp] theorem detect_sdaIn (o : Oracles) (s : State) : (detect o s).sdaIn = s.sdaIn := rfl
@[simp] theorem detect_sclOut (o : Oracles) (s : State) : (detect o s).sclOut = s.sclOut := rfl
@[simp] theorem detect_sdaOut (o : Oracles) (s : State) : (detect o s).sdaOut = s.sdaOut := rfl
@[simp] theorem detect_busState (o : Oracles) (s : State) : (detect o s).busState = s.busState := rfl
@[simp] theorem detect_acc (o : Oracles) (s : State) : (detect o s).acc = s.acc := rfl
@[simp] theorem detect_bitIdx (o : Oracles) (s : State) : (detect o s).bitIdx = s.bitIdx := rfl
@[simp] theorem detect_addrStatus (o : Oracles) (s : State) : (detect o s).addrStatus = s.addrStatus := rfl
@[simp] theorem detect_subdest (o : Oracles) (s : State) : (detect o s).subdest = s.subdest := rfl
@[simp] theorem detect_pos (o : Oracles) (s : State) : (detect o s).pos = s.pos := rfl
@[simp] theorem detect_cmd (o : Oracles) (s : State) : (detect o s).cmd = s.cmd := rfl
@[simp] theorem detect_adr (o : Oracles) (s : State) : (detect o s).adr = s.adr := rfl
@[simp] theorem detect_val (o : Oracles) (s : State) : (detect o s).val = s.val := rfl
@[simp] theorem detect_count (o : Oracles) (s : State) : (detect o s).count = s.count := rfl
@[simp] theorem detect_bank (o : Oracles) (s : State) : (detect o s).bank = s.bank := rfl
@[simp] theorem detect_payload (o : Oracles) (s : State) : (detect o s).payload = s.payload := rfl
@[simp] theorem detect_gainLL (o : Oracles) (s : State) : (detect o s).gainLL = s.gainLL := rfl
@[simp] theorem detect_gainRR (o : Oracles) (s : State) : (detect o s).gainRR = s.gainRR := rfl
@[simp] theorem detect_muted (o : Oracles) (s : State) : (detect o s).muted = s.muted := rfl
@[simp] theorem detect_frameCounter (o : Oracles) (s : State) : (detect o s).frameCounter = s.frameCounter := rfl
@[simp] theorem detect_ring (o : Oracles) (s : State) : (detect o s).ring = s.ring := rfl
@[simp] theorem detect_frameBuffered (o : Oracles) (s : State) : (detect o s).frameBuffered = frameComplete (o.findFrame s.ring) s.ring.length := rfl
@[simp] theorem detect_smp (o : Oracles) (s : State) : (detect o s).smp = s.smp := rfl
@[simp] theorem detect_smpRd (o : Oracles) (s : State) : (detect o s).smpRd = s.smpRd := rfl
@[simp] theorem detect_demand (o : Oracles) (s : State) : (detect o s).demand = s.demand := rfl
@[simp] theorem detect_frameSync (o : Oracles) (s : State) : (detect o s).frameSync = s.frameSync := rfl
@[simp] theorem detect_outRate (o : Oracles) (s : State) : (detect o s).outRate = s.outRate := rfl
@[simp] theorem detect_outGainL (o : Oracles) (s : State) : (detect o s).outGainL = s.outGainL := rfl
@[simp] theorem detect_outGainR (o : Oracles) (s : State) : (detect o s).outGainR = s.outGainR := rfl
@[simp] theorem detect_cfg (o : Oracles) (s : State) : (detect o s).cfg = s.cfg := rfl
@[simp] theorem detect_input (o : Oracles) (s : State) : (detect o s).input = s.input := rfl
@[simp] theorem detect_trace (o : Oracles) (s : State) : (detect o s).trace = s.trace := rfl
@[simp] theorem detect_ret (o : Oracles) (s : State) : (detect o s).ret = s.ret := rfl
@[simp] theorem detect_decodeCalls (o : Oracles) (s : State) : (detect o s).decodeCalls = s.decodeCalls := rfl

end Sys2Proof.Machine
end

