-- ==== Sys2Proof/Tests/Slice0.lean ====
section
/-! SUPPORT. The model's own tests. Expected values come from spec/95_test_vectors.md (the vector is named in each comment) or
from the encodings of 30_encoding.md written out bit by bit. The `witness_` theorems show that the hypotheses of the statement
of that name can be met, clause by clause. -/

namespace Sys2Proof.Tests

open Sys2Proof Sys2Proof.Config Sys2Proof.Machine

/-! ### Helpers -/

/-- The operation answers a next state, and it has the property. -/
def holdsNext (r : Result) (p : State → Bool) : Bool :=
  match r with
  | .next t => p t
  | .fault _ => false
  | .refused _ => false

/-- A session of this device before the first bit of a byte, the clock low, as the bytes before leave it. -/
def session (sd : SubDest) (p : Nat) (c : Command) : State :=
  { State.reset with
    sclIn := false, sdaOut := false, busState := .started, addrStatus := .valid, subdest := sd, pos := p, cmd := c }

/-- The start of the vectors of section 4: `S W(0x3A) W(0x68)` sent. -/
def commandSession : State := session .dataWrite 0 .bad

/-- The bus right after a START and the clock fall that follows it. -/
def startSession : State := { State.reset with sclIn := false, sdaIn := false, busState := .started }

/-- Vector I10 after `W(0x3B)`. -/
def readSession : State := { session .dataRead 0 .bad with frameCounter := 0x12345678#32, payload := 0x34127856#32 }

/-- The parameters of section 5: `RING_CAP = 8`, `SAMPLE_CAP = 8`. -/
def toyParams : Params := { referenceProfile with ringCap := 8, sampleCap := 8 }

/-- The reset state of section 5 with a given ring and flag. -/
def pipe (ring : List Byte) (flag : Bool) : State := { State.resetWith toyParams with ring := ring, frameBuffered := flag }

/-- T.FindFrame of section 5. -/
def toyFind (r : List Byte) : Nat × Nat :=
  let i := r.findIdx (fun b => b == 0xFF#8)
  match r[i + 1]? with
  | some size => (i, size.toNat)
  | none => (0, 0)

/-- T.Decode of section 5. -/
def toyDecode (r : List Byte) : Decoded :=
  let found := toyFind r
  if found.2 < 3 ∨ r.length < found.1 + found.2 then ⟨[], 0, 0⟩
  else
    ⟨((r.drop (found.1 + 2)).take (found.2 - 2)).map (fun b => ⟨b.setWidth 16, -(b.setWidth 16)⟩),
      found.1 + found.2, if found.2 % 2 = 0 then 44100 else 48000⟩

/-- The toy codec of section 5, `Conv` the identity. -/
def toy : Oracles := ⟨toyFind, fun _ r => toyDecode r, fun x => x.toInt⟩

/-! ### WellFormed refuses ill-formed terms -/

/-- R104: an address row with another device's address, and a mismatch row with this device's. -/
theorem test_wellFormed_address :
    wellFormed referenceProfile (.addrWrite 0x1E#7) = false ∧ wellFormed referenceProfile (.addrRead 0x00#7) = false ∧
    wellFormed referenceProfile (.addrMismatch 0x3B#8) = false ∧ wellFormed referenceProfile (.addrWrite 0x1D#7) = true ∧
    wellFormed referenceProfile (.addrMismatch 0x3C#8) = true := by decide

/-- R105: a bad selector that is one of the three constants. -/
theorem test_wellFormed_selector :
    wellFormed referenceProfile (.selBad 0x68#8) = false ∧ wellFormed referenceProfile (.selBad 0x69#8) = false ∧
    wellFormed referenceProfile (.selBad 0x6A#8) = false ∧ wellFormed referenceProfile (.selBad 0x6B#8) = true := by decide

/-- R111: a write-memory command with fewer or more words than it declares. -/
theorem test_wellFormed_wordCount :
    wellFormed referenceProfile (.wrmem true 0#4 2#16 0#16 [⟨1#20, 0#4⟩]) = false ∧
    wellFormed referenceProfile (.wrmem true 0#4 0#16 0#16 [⟨1#20, 0#4⟩]) = false ∧
    wellFormed referenceProfile (.wrmem true 0#4 1#16 0#16 [⟨1#20, 0#4⟩]) = true := by decide

/-! ### Decoding, words written from 30_encoding.md -/

/-- R104: `0011101 0`, `0011101 1`, `0101000 0`. -/
theorem test_decode_address :
    decodeBytes referenceProfile .address [0b00111010#8, 7#8] = .ok (.addrWrite 0b0011101#7, [7#8]) ∧
    decodeBytes referenceProfile .address [0b00111011#8] = .ok (.addrRead 0b0011101#7, []) ∧
    decodeBytes referenceProfile .address [0b01010000#8] = .ok (.addrMismatch 0b01010000#8, []) := ⟨rfl, rfl, rfl⟩

/-- R105: the three selectors of P0 and another byte. -/
theorem test_decode_selector :
    decodeBytes referenceProfile .selector [0b01101000#8] = .ok (.selDataWrite, []) ∧
    decodeBytes referenceProfile .selector [0b01101001#8] = .ok (.selDataRead, []) ∧
    decodeBytes referenceProfile .selector [0b01101010#8] = .ok (.selControl, []) ∧
    decodeBytes referenceProfile .selector [0b10010001#8] = .ok (.selBad 0b10010001#8, []) := ⟨rfl, rfl, rfl, rfl⟩

/-- R108, R109, R112, R113: `000x aaaa aaaaaaaa`, `0011 xxxx`, `1101 xxxx`, `111b xxxx`. -/
theorem test_decode_shortCommands :
    decodeBytes referenceProfile .command [0b00000001#8, 0b10000010#8] = .ok (.run false 0b000110000010#12, []) ∧
    decodeBytes referenceProfile .command [0b00111010#8] = .ok (.rdctl 0b1010#4, []) ∧
    decodeBytes referenceProfile .command [0b11010101#8] = .ok (.rdreg 0b0101#4, []) ∧
    decodeBytes referenceProfile .command [0b11101100#8] = .ok (.rdmem false 0b1100#4, []) ∧
    decodeBytes referenceProfile .command [0b11110101#8] = .ok (.rdmem true 0b0101#4, []) := ⟨rfl, rfl, rfl, rfl, rfl⟩

/-- R110, R111: `1001 rrrr rrrr xxxx v v`, `101b xxxx n n a a` and a word `A B xxxx WWWW`. -/
theorem test_decode_writeCommands :
    decodeBytes referenceProfile .command [0b10011100#8, 0b00110101#8, 0x80#8, 0x01#8] =
      .ok (.wrreg 0b11000011#8 0b0101#4 0x8001#16, []) ∧
    decodeBytes referenceProfile .command [0b10100110#8, 0x00#8, 0x01#8, 0x80#8, 0x02#8, 0xAB#8, 0xCD#8, 0b11111110#8, 9#8] =
      .ok (.wrmem false 0b0110#4 1#16 0x8002#16 [⟨0xEABCD#20, 0xF#4⟩], [9#8]) := ⟨rfl, rfl⟩

/-- R107, R117: the reserved nibbles `0010`, `01xx`, `1000`, `1100`. -/
theorem test_decode_reserved :
    decodeBytes referenceProfile .command [0b00100001#8] = .ok (.bad2 1#4, []) ∧
    decodeBytes referenceProfile .command [0b01000101#8] = .ok (.bad47 0b000101#6, []) ∧
    decodeBytes referenceProfile .command [0b01110000#8] = .ok (.bad47 0b110000#6, []) ∧
    decodeBytes referenceProfile .command [0b10001000#8] = .ok (.bad8 8#4, []) ∧
    decodeBytes referenceProfile .command [0b11000100#8] = .ok (.badC 4#4, []) := ⟨rfl, rfl, rfl, rfl, rfl⟩

/-- R114, R115: the one-byte formats of the other sub-destinations. -/
theorem test_decode_sessionBytes :
    decodeBytes referenceProfile .read [0xFF#8] = .ok (.dataReadGroup 0xFF#8, []) ∧
    decodeBytes referenceProfile .control [0x91#8] = .ok (.controlByte 0x91#8, []) ∧
    decodeBytes referenceProfile .bad [0x91#8] = .ok (.badByte 0x91#8, []) := ⟨rfl, rfl, rfl⟩

/-- The decoder rejects by name: no byte, a command cut short, no row. -/
theorem test_decode_rejects :
    decodeBytes referenceProfile .command [] = .error .noBytes ∧
    decodeBytes referenceProfile .command [0x91#8, 0x00#8, 0x00#8] = .error .truncated ∧
    decodeBytes referenceProfile .command [0xA0#8, 0x00#8, 0x01#8, 0x00#8, 0x00#8, 0x01#8, 0x02#8] = .error .truncated ∧
    decodeInput referenceProfile none (.bytes [0x00#8]) = .error .noRowBegins := ⟨rfl, rfl, rfl, rfl⟩

/-- Words of the opcode table, the first byte in bits 7 to 0. -/
theorem test_decodeTableWord :
    decodeTableWord 16 0xCB1F = some (.run true 0xFCB#12) ∧ decodeTableWord 8 0x35 = some (.rdctl 5#4) ∧
    decodeTableWord 32 0x3412F79F = some (.wrreg 0xFF#8 7#4 0x1234#16) ∧
    decodeTableWord 40 0x34120000A1 = some (.wrmem false 1#4 0#16 0x1234#16 []) ∧
    decodeTableWord 8 0x1B = some (.addrRead 0x0D#7) ∧ decodeTableWord 8 0x45 = some (.bad47 5#6) := by decide

/-- A table word runs as the first operation after reset: RDCTL emits its event, an address byte opens the session. -/
theorem test_step_withFetchWord :
    holdsNext (step (State.reset.withFetchWord 8 0x35)) (fun t => t.trace == [.readControl] && t.input == []) = true ∧
    holdsNext (step (State.reset.withFetchWord 8 0x1A)) (fun t => t.addrStatus == .valid && t.input == []) = true := by decide

/-! ### One step per operation -/

/-- V1, the ninth `C+` and the cell of bit 1. -/
theorem test_setClock_rise :
    holdsNext (exec (.setClock true) { startSession with busState := .ack, bitIdx := none, addrStatus := .valid })
      (fun t => t.busState == .ack2 && t.sclIn) = true ∧
    holdsNext (exec (.setClock true) { startSession with sdaIn := true, acc := 0x38#8, bitIdx := some 1, sdaOut := false })
      (fun t => t.acc == 0x3A#8 && t.bitIdx == some 0 && !t.sdaOut) = true := by decide

/-- V1, the last `C-`. -/
theorem test_setClock_fall :
    holdsNext (exec (.setClock false) { startSession with sclIn := true, busState := .ack2, bitIdx := none, acc := 5#8 })
      (fun t => t.busState == .started && t.bitIdx == some 7 && t.acc == 0#8 && !t.sclIn) = true := by decide

/-- V2: START, and the data rise right after it. -/
theorem test_setData_start :
    holdsNext (exec (.setData false) State.reset) (fun t => t.busState == .started && t.bitIdx == some 7) = true ∧
    holdsNext (exec (.setData true) { State.reset with sdaIn := false, busState := .started })
      (fun t => t.busState == .started && t.sdaIn && t.trace == []) = true := by decide

/-- V2: the data rise after one bit cell is a STOP and does not release the line. -/
theorem test_setData_stop :
    holdsNext (exec (.setData true)
        { State.reset with sdaIn := false, sdaOut := false, busState := .started, bitIdx := some 6 })
      (fun t => t.busState == .idle && t.bitIdx == some 7 && t.trace == [.transactionEnded] && !t.sdaOut) = true := by decide

/-- V1: the line reads. -/
theorem test_readLines :
    holdsNext (exec .readClock startSession) (fun t => t.ret == .level false) = true ∧
    holdsNext (exec .readData { startSession with sdaIn := true, sdaOut := false }) (fun t => t.ret == .level false) = true ∧
    holdsNext (exec .readData State.reset) (fun t => t.ret == .level true) = true := by decide

/-- V6: START loses the bits sampled so far. -/
theorem test_start :
    holdsNext (exec .start { startSession with acc := 0x30#8, bitIdx := some 3, addrStatus := .valid, pos := 2 })
      (fun t => t.busState == .started && t.bitIdx == some 7 && t.acc == 0#8 && t.addrStatus == .unresolved && t.pos == 2)
      = true := by decide

/-- PR4's STOP, under both settings of `SDA_RELEASE`. -/
theorem test_stop :
    holdsNext (exec .stop { State.reset with busState := .nak, addrStatus := .invalid, acc := 0x50#8, sdaOut := false })
      (fun t => t == { State.reset with sdaOut := false, trace := [.transactionEnded] }) = true ∧
    holdsNext (exec .stop { State.reset with
        busState := .nak, sdaOut := false, cfg := { referenceProfile with sdaRelease := .onNakIdle } })
      (fun t => t.sdaOut) = true := by decide

/-- V1: the eighth bit cell of the address byte. -/
theorem test_bitcell_eighth :
    holdsNext (exec .bitcell { startSession with acc := 0x3A#8, bitIdx := some 0 })
      (fun t => t.busState == .ack && t.bitIdx == none && t.acc == 0#8 && t.addrStatus == .valid && t.subdest == .undefined)
      = true := by decide

/-- I10: the third bit cell of the first read group drives `PAYLOAD[5] = 0`, the fourth `PAYLOAD[4] = 1`. -/
theorem test_bitcell_drives :
    holdsNext (exec .bitcell { readSession with bitIdx := some 5 }) (fun t => !t.sdaOut) = true ∧
    holdsNext (exec .bitcell { readSession with bitIdx := some 4 }) (fun t => t.sdaOut && t.bitIdx == some 3) = true := by decide

/-- V1: the acknowledge cell. -/
theorem test_ackcell :
    holdsNext (exec .ackcell { startSession with busState := .ack, bitIdx := none, addrStatus := .valid, sdaOut := false })
      (fun t => t.busState == .started && t.bitIdx == some 7 && !t.sdaOut && t.addrStatus == .valid) = true := by decide

/-- V1 at byte level: `W(0x3A)`. -/
theorem test_addrWrite :
    holdsNext (exec (.addrWrite 0x1D#7) startSession) (fun t =>
      t.busState == .ack && t.addrStatus == .valid && t.subdest == .undefined && t.acc == 0#8 && !t.sdaOut) = true := by decide

/-- I10: `W(0x3B)` after the selection keeps the payload. -/
theorem test_addrRead :
    holdsNext (exec (.addrRead 0x1D#7) { readSession with addrStatus := .unresolved }) (fun t =>
      t.busState == .ack && t.subdest == .dataRead && t.pos == 0 && t.payload == 0x34127856#32) = true := by decide

/-- PR4 and V8: `W(0x50)`. -/
theorem test_addrMismatch :
    holdsNext (exec (.addrMismatch 0x50#8) startSession) (fun t =>
      t.busState == .nak && t.addrStatus == .invalid && t.acc == 0x50#8 && !t.sdaOut && t.trace == []) = true ∧
    holdsNext (exec (.addrMismatch 0x50#8)
        { startSession with cfg := { referenceProfile with sdaRelease := .onNakIdle } })
      (fun t => t.busState == .nak && t.sdaOut) = true := by decide

/-- I10, I9, I8 and section 4: the four selections. -/
theorem test_selectors :
    holdsNext (exec .selDataWrite (session .undefined 0 .bad)) (fun t => t.subdest == .dataWrite && t.busState == .ack) = true ∧
    holdsNext (exec .selDataRead { session .undefined 0 .bad with frameCounter := 0x12345678#32 })
      (fun t => t.subdest == .dataRead && t.payload == 0x34127856#32) = true ∧
    holdsNext (exec .selControl (session .undefined 0 .bad)) (fun t => t.subdest == .control && t.pos == 0) = true ∧
    holdsNext (exec (.selBad 0x00#8) (session .undefined 0 .bad)) (fun t => t.subdest == .bad && t.busState == .ack) = true := by
  decide

/-- I3: run-program. -/
theorem test_run :
    holdsNext (exec (.run true 0xFCB#12) commandSession) (fun t =>
      t.cmd == .runProgram && t.adr == 0x0FCB#16 && t.trace == [.runProgram 0x0FCB#16] && t.pos == 2) = true := by decide

/-- I4: the one-byte commands. -/
theorem test_oneByteCommands :
    holdsNext (exec (.rdctl 0#4) commandSession) (fun t => t.cmd == .readControl && t.trace == [.readControl]) = true ∧
    holdsNext (exec (.rdreg 0#4) commandSession) (fun t => t.cmd == .readRegister && t.trace == [.readRegister]) = true ∧
    holdsNext (exec (.rdmem true 5#4) commandSession) (fun t =>
      t.cmd == .readMemory && t.trace == [.readMemory true] && t.bank && t.pos == 1) = true := by decide

/-- I4: the reserved commands `0x20`, `0x45`, `0x80`, `0xC0`. -/
theorem test_reservedCommands :
    holdsNext (exec (.bad2 0#4) commandSession) (fun t => t.cmd == .bad && t.trace == [] && t.pos == 1) = true ∧
    holdsNext (exec (.bad47 5#6) commandSession) (fun t => t.cmd == .bad && t.trace == [] && t.busState == .ack) = true ∧
    holdsNext (exec (.bad8 0#4) commandSession) (fun t => t.cmd == .bad && t.trace == [] && t.pos == 1) = true ∧
    holdsNext (exec (.badC 0#4) commandSession) (fun t => t.cmd == .bad && t.trace == [] && t.pos == 1) = true := by decide

/-- I2: write-register with the ignored nibble set. -/
theorem test_wrreg :
    holdsNext (exec (.wrreg 0xFF#8 0xF#4 0x1234#16) commandSession) (fun t =>
      t.adr == 0x00FF#16 && t.val == 0x01234#20 && t.trace == [.regWrite 0xFF#8 0x1234#16] && t.pos == 4) = true := by decide

/-- I5: two words, the first the left gain. -/
theorem test_wrmem :
    holdsNext (exec (.wrmem true 0#4 2#16 0x07F8#16 [⟨0x80000#20, 0#4⟩, ⟨0x51234#20, 0#4⟩]) commandSession) (fun t =>
      t.trace == [.memWrite true 0x07F8#16 0x80000#20, .memWrite true 0x07F9#16 0x51234#20] &&
      t.gainLL == .db 0 && t.outGainL == .db 0 && t.gainRR == .zero && t.adr == 0x07F8#16 && t.pos == 11) = true := by decide

/-- I7: the word address wraps. -/
theorem test_wrmem_wraps :
    holdsNext (exec (.wrmem false 0#4 2#16 0xFFFF#16 [⟨0xEABCD#20, 0xF#4⟩, ⟨0x30102#20, 0#4⟩]) commandSession) (fun t =>
      t.trace == [.memWrite false 0xFFFF#16 0xEABCD#20, .memWrite false 0x0000#16 0x30102#20]) = true := by decide

/-- I1 and I6: the overrun bytes `W(0xFF)` after write-register and `W(0x56)` of a write-memory with count 0. -/
theorem test_overruns :
    holdsNext (runWire [0xFF#8] (session .dataWrite 4 .writeRegister)) (fun t =>
      t.busState == .nak && t.pos == 4 && t.trace == []) = true ∧
    holdsNext (runWire [0x56#8] (session .dataWrite 5 .writeMemory)) (fun t =>
      t.busState == .nak && t.pos == 5 && t.val == 0#20 && t.trace == []) = true := by decide

/-- I10: the first group ends with `PAYLOAD[0] = 0` driven, the third forces NAK with `PAYLOAD[16] = 0` driven. -/
theorem test_dataReadGroup :
    holdsNext (exec (.dataReadGroup 0xFF#8) readSession) (fun t => t.pos == 1 && t.busState == .ack && !t.sdaOut) = true ∧
    holdsNext (exec (.dataReadGroup 0xFF#8) { readSession with pos := 2 }) (fun t =>
      t.pos == 2 && t.busState == .nak && !t.sdaOut && t.payload == 0x34127856#32) = true := by decide

/-- I9 and I8: a control byte is reported, a bad byte dropped. -/
theorem test_controlAndBadByte :
    holdsNext (exec (.controlByte 0x91#8) (session .control 0 .bad)) (fun t =>
      t.trace == [.controlByte 0x91#8] && t.pos == 0) = true ∧
    holdsNext (exec (.badByte 0x91#8) (session .bad 0 .bad)) (fun t =>
      t.trace == [] && t.busState == .ack && t.pos == 0 && t.cmd == .bad) = true := by decide

/-- X6 and G3: the mute register, value 1, and any other value. -/
theorem test_regWrite :
    holdsNext (exec (.regWrite 0xAA#8 1#16) { State.reset with gainLL := .db 0, outGainL := .db 0 }) (fun t =>
      t.muted && t.outGainL == .zero && t.gainLL == .db 0) = true ∧
    holdsNext (exec (.regWrite 0xAA#8 0x0101#16) { State.reset with gainLL := .db 0, gainRR := .db (-8), muted := true })
      (fun t => !t.muted && t.outGainL == .db 0 && t.outGainR == .db (-8)) = true := by decide

/-- X6, G4: the right gain, and a left gain written while muted. -/
theorem test_memWrite :
    holdsNext (exec (.memWrite true 0x07FB#16 0xCC36F#20) State.reset) (fun t =>
      t.gainRR == .db (-8) && t.outGainR == .db (-8) && t.gainLL == .zero) = true ∧
    holdsNext (exec (.memWrite true 0x07F8#16 0xC0000#20) { State.reset with muted := true }) (fun t =>
      t.gainLL == .db (-6) && t.outGainL == .zero) = true := by decide

/-- G1: the gain conversion points. -/
theorem test_gainPoints :
    gainOf 0x00000#20 = .zero ∧ gainOf 0x00001#20 = .db 6 ∧ gainOf 0x0EE49#20 = .db 6 ∧ gainOf 0x0EE4A#20 = .db 5 ∧
    gainOf 0x40000#20 = .db 4 ∧ gainOf 0x786A5#20 = .db 1 ∧ gainOf 0x786A6#20 = .db 0 ∧ gainOf 0x80000#20 = .db 0 ∧
    gainOf 0x87290#20 = .db 0 ∧ gainOf 0x87291#20 = .db (-1) ∧ gainOf 0xBC0BF#20 = .db (-5) ∧ gainOf 0xBC0C0#20 = .db (-6) ∧
    gainOf 0xC0000#20 = .db (-6) ∧ gainOf 0xC36FC#20 = .db (-6) ∧ gainOf 0xC36FD#20 = .db (-7) ∧ gainOf 0xCC36F#20 = .db (-8) ∧
    gainOf 0xFFFFD#20 = .db (-105) ∧ gainOf 0xFFFFE#20 = .db (-108) ∧ gainOf 0xFFFFF#20 = .db (-114) := by decide

/-- T2 and T3: the byte after the frame raises the flag; a byte into the full ring evicts the oldest. -/
theorem test_feedByte :
    (feedByte toy 0#8 (pipe [0xFF#8, 4#8, 0x0A#8, 0x0B#8] false)).frameBuffered = true ∧
    (feedByte toy 0x0B#8 (pipe [0xFF#8, 4#8, 0x0A#8] false)).frameBuffered = false ∧
    feedByte toy 4#8 (pipe [0xFF#8, 4#8, 0x0A#8, 0x0B#8, 0#8, 1#8, 2#8, 3#8] true) =
      { pipe [4#8, 0x0A#8, 0x0B#8, 0#8, 1#8, 2#8, 3#8, 4#8] true with demand := false, trace := [.demand false] } := by decide

/-- T10: garbage before the frame; the eighth byte raises the flag and fills the ring. -/
theorem test_feedByte_fills :
    feedByte toy 0#8 (pipe [1#8, 2#8, 0xFF#8, 5#8, 9#8, 8#8, 7#8] false) =
      { pipe [1#8, 2#8, 0xFF#8, 5#8, 9#8, 8#8, 7#8, 0#8] true with demand := false, trace := [.demand false] } := by decide

/-- T4: `Produce(3)`. -/
theorem test_produce :
    produce toy 3 (pipe [0xFF#8, 4#8, 0x0A#8, 0x0B#8, 0#8] true) =
      ([⟨10, -10⟩, ⟨11, -11⟩, ⟨0, 0⟩],
        { pipe [0#8] false with
          smp := [⟨10#16, -10#16⟩, ⟨11#16, -11#16⟩], smpRd := 2, frameCounter := 1#32, outRate := 44100, decodeCalls := 1
          demand := true, frameSync := false
          trace := [.frameSync false, .frameSync true, .demand true, .frameSync false, .demand true] }) := by decide

/-- T5: `Produce(2)` with an undecodable frame. -/
theorem test_produce_failure :
    produce toy 2 { pipe [4#8, 0x0A#8, 0x0B#8, 0#8, 1#8, 2#8, 3#8, 4#8] true with demand := false } =
      ([⟨0, 0⟩, ⟨0, 0⟩],
        { pipe [] false with demand := false, trace := [.frameSync false], decodeCalls := 1 }) := by decide

/-- T6: one Fill, an odd size gives rate 48000. -/
theorem test_fill :
    fill toy (pipe [0xFF#8, 3#8, 0x7F#8, 0#8] true) =
      { pipe [0#8] false with
        smp := [⟨127#16, -127#16⟩], frameCounter := 1#32, outRate := 48000, decodeCalls := 1, frameSync := true
        trace := [.frameSync false, .frameSync true, .demand true] } := by decide

/-- T9: `Produce(2)` and Fill from reset. -/
theorem test_produce_fromReset :
    holdsNext (exec (.produce 2) State.reset) (fun t =>
      t.ret == .block [⟨0, 0⟩, ⟨0, 0⟩] && t.trace == [.frameSync false, .demand true]) = true ∧
    holdsNext (exec .fill State.reset) (fun t => t.trace == [.frameSync false, .demand true]) = true := by decide

/-- R340: reset of a used block. -/
theorem test_reset :
    holdsNext (exec .reset { readSession with gainLL := .db 3, muted := true, ring := [1#8], smpRd := 4, outRate := 8000 })
      (fun t => t == State.reset) = true := by decide

/-! ### Witnesses: the hypotheses of each statement can be met, clause by clause -/

/-- An item with nothing left over, an item with bytes left over, nothing presented, and a byte that begins no row. -/
theorem witness_StepRunsDecodedOperation :
    (let s := { startSession with input := [.bytes [0x3A#8], .call .reset] };
      s.input = .bytes [0x3A#8] :: [.call .reset] ∧
      decodeInput s.cfg (byteFormat s) (.bytes [0x3A#8]) = .ok (.addrWrite 0x1D#7, [])) ∧
    (let s := { startSession with input := [.bytes [0x3A#8, 0x68#8]] };
      s.input = .bytes [0x3A#8, 0x68#8] :: [] ∧
      decodeInput s.cfg (byteFormat s) (.bytes [0x3A#8, 0x68#8]) = .ok (.addrWrite 0x1D#7, [0x68#8])) ∧
    State.reset.input = [] ∧
    (let s := { State.reset with input := [.bytes [1#8]] };
      s.input = .bytes (1#8 :: []) :: [] ∧
      decodeInput s.cfg (byteFormat s) (.bytes [1#8]) = .error .noRowBegins) :=
  ⟨⟨rfl, rfl⟩, ⟨rfl, rfl⟩, rfl, rfl, rfl⟩

/-- A well-formed operation of every format. -/
theorem witness_DecodeOfEncodeIsTheOperation :
    referenceProfile.ok = true ∧
    wellFormed referenceProfile (.wrmem true 0#4 1#16 0#16 [⟨1#20, 0#4⟩]) = true ∧
    (Instr.wrmem true 0#4 1#16 0#16 [⟨1#20, 0#4⟩]).format = some .command ∧
    wellFormed referenceProfile (.addrWrite 0x1D#7) = true ∧ (Instr.addrWrite 0x1D#7).format = some .address ∧
    wellFormed referenceProfile (.selBad 0#8) = true ∧ (Instr.selBad 0#8).format = some .selector ∧
    wellFormed referenceProfile (.dataReadGroup 0#8) = true ∧ (Instr.dataReadGroup 0#8).format = some .read ∧
    wellFormed referenceProfile (.controlByte 0#8) = true ∧ (Instr.controlByte 0#8).format = some .control ∧
    wellFormed referenceProfile (.badByte 0#8) = true ∧ (Instr.badByte 0#8).format = some .bad := by decide

/-- Bytes that are read, with a byte left over. -/
theorem witness_EncodeOfDecodeIsTheBytes :
    decodeBytes referenceProfile .command [0x91#8, 0#8, 0#8, 0x2A#8, 7#8] = .ok (.wrreg 0x10#8 0#4 0x2A#16, [7#8]) := rfl

/-- The lengths at their boundaries: RUN and WRREG with just enough and one byte less, WRMEM with no word and with one. -/
theorem witness_OnlyShortCommandsAreNotRead :
    ByteFormat.selector ≠ .command ∧
    (∃ i t, decodeBytes referenceProfile .command [0x1F#8, 0#8] = .ok (i, t)) ∧
    decodeBytes referenceProfile .command [0x1F#8] = .error .truncated ∧
    (∃ i t, decodeBytes referenceProfile .command [0x9F#8, 0#8, 0#8, 0#8] = .ok (i, t)) ∧
    decodeBytes referenceProfile .command [0x9F#8, 0#8, 0#8] = .error .truncated ∧
    (∃ i t, decodeBytes referenceProfile .command [0xA0#8, 0#8, 0#8, 0#8, 0#8] = .ok (i, t)) ∧
    (∃ i t, decodeBytes referenceProfile .command [0xBF#8, 0#8, 1#8, 0#8, 0#8, 1#8, 2#8, 3#8] = .ok (i, t)) ∧
    (∃ i t, decodeBytes referenceProfile .command [0xC0#8] = .ok (i, t)) :=
  ⟨by decide, ⟨_, _, rfl⟩, rfl, ⟨_, _, rfl⟩, rfl, ⟨_, _, rfl⟩, ⟨_, _, rfl⟩, ⟨_, _, rfl⟩⟩

/-- The invariant holds of a state in the middle of a byte of a data-write session, with a bit cell to come. -/
theorem witness_StepKeepsTheInvariant :
    Inv { commandSession with acc := 0x20#8, bitIdx := some 4, input := [.call (.setClock true)] } where
  cfg_ok := by decide
  clock_released := by decide
  idle_clear := by decide
  started_index := fun _ => ⟨by decide, 4, rfl, by
    intro j hj
    have h4 : j ≤ 4 := hj
    interval_cases j <;> decide⟩
  ack_valid := by decide
  ack2_clock := by decide
  nak_index := by decide
  invalid_nak := by decide
  read_pos := by decide
  out_gain_left := by decide
  out_gain_right := by decide
  gain_range := by decide
  ring_fits := by decide
  samples_fit := by decide
  cursor_inside := by decide

/-- Parameters within the conditions. -/
theorem witness_ResetMeetsTheInvariant : toyParams.ok = true := by decide

/-- A step from a state with a released clock output. -/
theorem witness_StepKeepsParametersAndClockOutput :
    commandSession.sclOut = true ∧ ∃ t, step { commandSession with input := [.bytes [0x30#8]] } = .next t := ⟨rfl, _, rfl⟩

/-- A step that appends an event. -/
theorem witness_StepOnlyAppendsEvents :
    ∃ t, step { commandSession with input := [.bytes [0x30#8]] } = .next t ∧ t.trace = [.readControl] := ⟨_, rfl, rfl⟩

/-- A line call, wire bytes, a byte fed and a block pulled. -/
theorem witness_BusAndPipelineWriteApart :
    (isLineCall (.setData false) = true ∧ ∃ t, step { State.reset with input := [.call (.setData false)] } = .next t) ∧
    (∃ t, step { commandSession with input := [.bytes [0x30#8, 1#8]] } = .next t) ∧
    (∃ t, step { State.reset with input := [.call (.feedByte 1#8)] } = .next t) ∧
    (∃ t, step { State.reset with input := [.call (.produce 2)] } = .next t) :=
  ⟨⟨rfl, _, rfl⟩, ⟨_, rfl⟩, ⟨_, rfl⟩, _, rfl⟩

/-- A step that loads the payload. -/
theorem witness_PayloadIsASnapshot :
    ∃ t, step { session .undefined 0 .bad with frameCounter := 0x12345678#32, input := [.bytes [0x69#8]] } = .next t ∧
      t.payload = 0x34127856#32 := ⟨_, rfl, by decide⟩

/-- The line rises in a read group, and by device reset. -/
theorem witness_LowDataLineRisesOnlyInDataReadOrReset :
    (readSession.cfg.sdaRelease = .literal ∧ readSession.sdaOut = false ∧
      ∃ t, step { readSession with bitIdx := some 4, input := [.call (.setClock true)] } = .next t ∧ t.sdaOut = true) ∧
    (commandSession.cfg.sdaRelease = .literal ∧ commandSession.sdaOut = false ∧
      ∃ t, step { commandSession with input := [.call .reset] } = .next t ∧ t.sdaOut = true) :=
  ⟨⟨rfl, rfl, _, rfl, by decide⟩, rfl, rfl, _, rfl, rfl⟩

/-- The three places of a byte boundary. -/
theorem witness_ClockedByteIsDelivered :
    atByteBoundary startSession = true ∧ startSession.addrStatus ≠ .invalid ∧
    atByteBoundary { commandSession with busState := .ack, bitIdx := none } = true ∧
    atByteBoundary { commandSession with busState := .ack2, bitIdx := none, sclIn := true } = true ∧
    commandSession.addrStatus ≠ .invalid := by decide

/-- An operation of every format, in a session at that format. -/
theorem witness_ClockedEncodingRunsTheOperation :
    byteFormat startSession = some .address ∧ byteFormat (session .undefined 0 .bad) = some .selector ∧
    byteFormat commandSession = some .command ∧ byteFormat readSession = some .read ∧
    byteFormat (session .control 0 .bad) = some .control ∧ byteFormat (session .bad 0 .bad) = some .bad ∧
    wellFormed commandSession.cfg (.wrmem true 0#4 1#16 0#16 [⟨1#20, 0#4⟩]) = true ∧
    (Instr.wrmem true 0#4 1#16 0#16 [⟨1#20, 0#4⟩]).format = some .command := by decide

/-- A session that ended in `Nak`. -/
theorem witness_NakConsumesNoByte : ({ commandSession with busState := .nak, bitIdx := none }).busState = .nak := rfl

/-- A low clock. -/
theorem witness_LineCallsWithoutABusEvent : commandSession.sclIn = false := rfl

/-- The four kinds of clock edge without a bit cell. -/
theorem witness_ClockEdgesOutsideBitCells :
    (let s := { commandSession with busState := .ack }; s.sclIn = false ∧ s.busState = .ack) ∧
    (let s := { commandSession with busState := .nak }; s.sclIn = false ∧ s.busState = .nak) ∧
    (let s := { commandSession with busState := .ack2, sclIn := true }; s.sclIn = true ∧ s.busState = .ack2) ∧
    (State.reset.sclIn = true ∧ State.reset.busState ≠ .ack2) := by decide

/-- Inside and outside an acknowledge cell. -/
theorem witness_AckCellReturnsToStarted :
    ({ commandSession with busState := .ack }).busState = .ack ∧ ({ commandSession with busState := .ack2 }).busState = .ack2 ∧
    State.reset.busState ≠ .ack ∧ State.reset.busState ≠ .ack2 := by decide

/-- Both lines high. -/
theorem witness_StartFromAnyState : State.reset.sclIn = true ∧ State.reset.sdaIn = true := by decide

/-- A STOP after one bit cell, and the data rise right after a START. -/
theorem witness_StopEndsTheSession :
    (let s := { State.reset with sdaIn := false, busState := .started, bitIdx := some 6 };
      s.sclIn = true ∧ s.sdaIn = false ∧ ¬(s.busState = .started ∧ s.bitIdx = some 7 ∧ s.addrStatus = .unresolved)) ∧
    (let s := { State.reset with sdaIn := false, busState := .started };
      s.sclIn = true ∧ s.sdaIn = false ∧ s.busState = .started ∧ s.bitIdx = some 7 ∧ s.addrStatus = .unresolved) := by decide

/-- The first and the seventh bit cell of a byte. -/
theorem witness_BitCellSamplesDrivesAndCounts :
    (commandSession.bitIdx = some 7 ∧ 0 < (7 : Fin 8).val ∧ commandSession.busState = .started ∧ commandSession.sclIn = false) ∧
    ({ commandSession with bitIdx := some 1 }.bitIdx = some 1 ∧ 0 < (1 : Fin 8).val) := by decide

/-- The eighth bit cell of a control byte. -/
theorem witness_EighthBitCellHandsTheByteOver :
    let s := { session .control 0 .bad with bitIdx := some 0 }
    s.bitIdx = some 0 ∧ s.addrStatus = .valid ∧ s.subdest = .control ∧ s.busState = .started ∧ s.sclIn = false := by decide

/-- A state without a bit index; a state in `Started` that meets the invariant (its witness above). -/
theorem witness_BitCellWithoutIndexStops :
    ({ commandSession with bitIdx := none }).bitIdx = none ∧
    (let s := { commandSession with acc := 0x20#8, bitIdx := some 4, input := [.call (.setClock true)] };
      Inv s ∧ s.busState = .started) := ⟨rfl, witness_StepKeepsTheInvariant, rfl⟩

/-- The clock output released. -/
theorem witness_ReadClockReturnsTheWiredAnd : startSession.sclOut = true := rfl

/-- An address byte next to the device's own, and one far from it. -/
theorem witness_MismatchingAddressNaks :
    (0x3C#8).toNat / 2 ≠ startSession.cfg.devAddr.toNat ∧ (0x39#8).toNat / 2 ≠ startSession.cfg.devAddr.toNat := by decide

/-- A session before its selector byte, and a byte that is none of the three selectors. -/
theorem witness_SelectorBytesSelect :
    let s := session .undefined 0 .bad
    s.cfg.ok = true ∧ s.subdest = .undefined ∧
      0x6B#8 ≠ s.cfg.selDataWrite ∧ 0x6B#8 ≠ s.cfg.selDataRead ∧ 0x6B#8 ≠ s.cfg.selControl := by decide

/-- A `bad` session. -/
theorem witness_BadByteIsDiscarded : (session .bad 0 .bad).subdest = .bad := rfl

/-- A `control` session. -/
theorem witness_ControlByteIsReported : (session .control 0 .bad).subdest = .control := rfl

/-- The three positions of a read session. -/
theorem witness_ReadGroupsAreCounted :
    (readSession.subdest = .dataRead ∧ readSession.pos < 2) ∧
    ({ readSession with pos := 1 }.subdest = .dataRead ∧ ({ readSession with pos := 1 }).pos < 2) ∧
    ({ readSession with pos := 2 }.subdest = .dataRead ∧ ({ readSession with pos := 2 }).pos = 2) := by decide

/-- A data-write session at its command byte. -/
theorem witness_RunReportsTheProgramAddress :
    commandSession.busState ≠ .nak ∧ commandSession.subdest = .dataWrite ∧ commandSession.pos = 0 := by decide

/-- A data-write session at its command byte. -/
theorem witness_WriteRegisterDispatches :
    commandSession.busState ≠ .nak ∧ commandSession.subdest = .dataWrite ∧ commandSession.pos = 0 := by decide

/-- A data-write session at its command byte, with no word and with one word. -/
theorem witness_WriteMemoryDispatchesEveryWord :
    commandSession.cfg.ok = true ∧ commandSession.busState ≠ .nak ∧ commandSession.subdest = .dataWrite ∧
    commandSession.pos = 0 ∧ ([] : List WireWord).length = (0#16).toNat ∧ [WireWord.mk 1#20 0#4].length = (1#16).toNat := by
  decide

/-- A data-write session at its command byte. -/
theorem witness_ReadControlIsReported :
    commandSession.busState ≠ .nak ∧ commandSession.subdest = .dataWrite ∧ commandSession.pos = 0 := by decide

/-- A data-write session at its command byte. -/
theorem witness_ReadRegisterIsReported :
    commandSession.busState ≠ .nak ∧ commandSession.subdest = .dataWrite ∧ commandSession.pos = 0 := by decide

/-- A data-write session at its command byte. -/
theorem witness_ReadMemoryIsReported :
    commandSession.busState ≠ .nak ∧ commandSession.subdest = .dataWrite ∧ commandSession.pos = 0 := by decide

/-- A data-write session at its command byte. -/
theorem witness_ReservedCommandsAreCountedOnly :
    commandSession.busState ≠ .nak ∧ commandSession.subdest = .dataWrite ∧ commandSession.pos = 0 := by decide

/-- The first surplus byte after each command. -/
theorem witness_SurplusBytesAreIgnored :
    (let s := session .dataWrite 2 .runProgram;
      atByteBoundary s = true ∧ s.addrStatus = .valid ∧ s.subdest = .dataWrite ∧ s.cmd = .runProgram ∧ 2 ≤ s.pos) ∧
    (∀ c ∈ [Command.readControl, .readRegister, .readMemory, .bad],
      let s := session .dataWrite 1 c
      atByteBoundary s = true ∧ s.addrStatus = .valid ∧ s.subdest = .dataWrite ∧ s.cmd = c ∧ 1 ≤ s.pos) := by decide

/-- The fifth byte of write-register, and the first byte past the words of write-memory, with no word and with one. -/
theorem witness_OverrunsForceNak :
    (let s := session .dataWrite 4 .writeRegister;
      atByteBoundary s = true ∧ s.addrStatus = .valid ∧ s.subdest = .dataWrite ∧ s.cmd = .writeRegister ∧ 4 ≤ s.pos) ∧
    (let s := session .dataWrite 5 .writeMemory;
      atByteBoundary s = true ∧ s.addrStatus = .valid ∧ s.subdest = .dataWrite ∧
        s.cmd = .writeMemory ∧ 5 ≤ s.pos ∧ s.count.toNat ≤ (s.pos - 5) / 3) ∧
    (let s := { session .dataWrite 8 .writeMemory with count := 1#16 };
      atByteBoundary s = true ∧ s.addrStatus = .valid ∧ s.subdest = .dataWrite ∧
        s.cmd = .writeMemory ∧ 5 ≤ s.pos ∧ s.count.toNat ≤ (s.pos - 5) / 3) := by decide

/-- Another register, the mute register with 1, and with another value. -/
theorem witness_RegisterWriteEffect :
    0xAB#8 ≠ State.reset.cfg.regMute ∧ 0xAA#8 = State.reset.cfg.regMute ∧ (1#16 : Half) = 1#16 ∧ (2#16 : Half) ≠ 1#16 := by
  decide

/-- The left and the right gain location, a cross-coupled one, and the left one's address in the other bank. -/
theorem witness_MemoryWriteEffect :
    State.reset.cfg.ok = true ∧ State.reset.cfg.memGainLL = ⟨true, 0x07F8#16⟩ ∧ State.reset.cfg.memGainRR = ⟨true, 0x07FB#16⟩ ∧
    State.reset.cfg.memGainLL ≠ ⟨true, 0x07F9#16⟩ ∧ State.reset.cfg.memGainRR ≠ ⟨true, 0x07F9#16⟩ ∧
    State.reset.cfg.memGainLL ≠ ⟨false, 0x07F8#16⟩ ∧ State.reset.cfg.memGainRR ≠ ⟨false, 0x07F8#16⟩ := by decide

/-- A value that clears the mute. -/
theorem witness_UnmuteRestoresTheGains : (0#16 : Half) ≠ 1#16 := by decide

/-- The least and the greatest nonzero raw value. -/
theorem witness_GainIsTheRoundedDecibel : (1#20 : MemWord) ≠ 0#20 ∧ (0xFFFFF#20 : MemWord) ≠ 0#20 := by decide

/-- The least and the greatest nonzero raw value. -/
theorem witness_GainTableMeetsTheDecibelLaw : (1#20 : MemWord) ≠ 0#20 ∧ (0xFFFFF#20 : MemWord) ≠ 0#20 := by decide

/-- T3: a full ring with a frame buffered. -/
theorem witness_FeedingAFullRingKeepsDemandLow :
    let s := pipe [0xFF#8, 4#8, 0x0A#8, 0x0B#8, 0#8, 1#8, 2#8, 3#8] true
    s.cfg.ok = true ∧ s.frameBuffered = true ∧ s.ring.length = s.cfg.ringCap ∧ [4#8] ≠ ([] : List Byte) := by decide

/-- No frame buffered; a decode failure (T5); a decoded frame (T4). -/
theorem witness_FillByCase :
    (pipe [0#8] false).frameBuffered = false ∧
    (let s := pipe [4#8, 0x0A#8, 0x0B#8, 0#8] true;
      s.frameBuffered = true ∧ (toy.decode s.decodeCalls s.ring).samples = []) ∧
    (let s := pipe [0xFF#8, 4#8, 0x0A#8, 0x0B#8, 0#8] true;
      s.frameBuffered = true ∧ toy.decode s.decodeCalls s.ring = ⟨[⟨10#16, -10#16⟩, ⟨11#16, -11#16⟩], 4, 44100⟩ ∧
        [Stereo.mk 10#16 (-10#16), ⟨11#16, -11#16⟩] ≠ []) := by decide

/-- A buffer with two pairs left, both wanted. -/
theorem witness_ProduceDrainsTheBuffer :
    let s := { pipe [] false with smp := [⟨1#16, 2#16⟩, ⟨3#16, 4#16⟩, ⟨5#16, 6#16⟩], smpRd := 1 }
    s.smpRd + 2 ≤ s.smp.length := by decide

/-- T9: an empty pipeline and one pair wanted. -/
theorem witness_ProduceOfAnEmptyPipelineIsSilence :
    State.reset.smpRd = State.reset.smp.length ∧ State.reset.frameBuffered = false ∧ 0 < 1 := by decide

/-- T5: an undecodable frame. -/
theorem witness_DecodeFailureGivesSilence :
    let s := pipe [4#8, 0x0A#8, 0x0B#8, 0#8, 1#8, 2#8, 3#8, 4#8] true
    s.smpRd = s.smp.length ∧ s.frameBuffered = true ∧ 0 < 2 ∧ (toy.decode s.decodeCalls s.ring).samples = [] := by decide

/-- T4, one frame decoded, and T5, a decode failure. -/
theorem witness_FrameCounterCountsFrameSyncs :
    (let s := pipe [0xFF#8, 4#8, 0x0A#8, 0x0B#8, 0#8] true;
      let t := (produce toy 3 s).2;
      t.trace = s.trace ++ [.frameSync false, .frameSync true, .demand true, .frameSync false, .demand true] ∧
      t.decodeCalls = s.decodeCalls + framesIn t.trace) ∧
    (let s := pipe [4#8, 0x0A#8, 0x0B#8, 0#8] true;
      let t := (produce toy 2 s).2;
      t.trace = s.trace ++ [.frameSync false] ∧ t.decodeCalls ≠ s.decodeCalls + framesIn t.trace) := by decide

/-- Two pairs left: both wanted; three wanted and no frame, a decode failure (T5), or a frame of two pairs (T4) that is enough for
four, and not for five. -/
theorem witness_ProduceByCase :
    let s (ring : List Byte) (flag : Bool) : State :=
      { pipe ring flag with smp := [⟨1#16, 2#16⟩, ⟨3#16, 4#16⟩, ⟨5#16, 6#16⟩], smpRd := 1 }
    let left := (s [] false).smp.drop (s [] false).smpRd
    (s [] false).smpRd ≤ (s [] false).smp.length ∧ 2 ≤ left.length ∧ left.length < 3 ∧ (s [0#8] false).frameBuffered = false ∧
    (s [4#8, 0x0A#8] true).frameBuffered = true ∧ (toy.decode 0 (s [4#8, 0x0A#8] true).ring).samples = [] ∧
    toy.decode 0 (s [0xFF#8, 4#8, 0x0A#8, 0x0B#8, 0#8] true).ring = ⟨[⟨10#16, -10#16⟩, ⟨11#16, -11#16⟩], 4, 44100⟩ ∧
    [Stereo.mk 10#16 (-10#16), ⟨11#16, -11#16⟩] ≠ [] ∧
    4 ≤ left.length + [Stereo.mk 10#16 (-10#16), ⟨11#16, -11#16⟩].length ∧
    left.length + [Stereo.mk 10#16 (-10#16), ⟨11#16, -11#16⟩].length < 5 := by decide

/-- A data-write session at its command byte: no word of none, one word of one, and one word of two. -/
theorem witness_WordsAreDispatchedAsTheyComplete :
    commandSession.cfg.ok = true ∧ byteFormat commandSession = some .command ∧
    ([] : List WireWord).length ≤ (0#16).toNat ∧ [WireWord.mk 1#20 0#4].length ≤ (1#16).toNat ∧
    [WireWord.mk 1#20 0#4].length < (2#16).toNat := by decide

end Sys2Proof.Tests
end

section
/-! SUPPORT. What one step can do: by input item, which operation it runs (O1); over every operation, that the parameters, a
released clock output and the events already in the trace stay (O8, O9). -/

namespace Sys2Proof.Machine

open Sys2Proof.Config

/-! ### A step by its input -/

/-- With nothing presented the block waits (70_reset_and_hazards.md R340). -/
theorem step_of_input_nil {s : State} (h : s.input = []) : step s = .next s := by
  simp only [step, h]

/-- An item that decodes runs its operation, and what it left over is presented again. -/
theorem step_of_decoded {s : State} {item : Input} {rest : List Input} {i : Instr} {tail : List Byte}
    (hin : s.input = item :: rest) (hd : decodeInput s.cfg (byteFormat s) item = .ok (i, tail)) :
    step s = exec i { s with input := requeue tail rest } := by
  simp only [step, hin, hd]

/-- An item that decodes to nothing is expanded (30_encoding.md R100). -/
theorem step_of_undecoded {s : State} {item : Input} {rest : List Input} {e : DecodeError}
    (hin : s.input = item :: rest) (hd : decodeInput s.cfg (byteFormat s) item = .error e) :
    step s = .next (expandInput item rest s) := by
  simp only [step, hin, hd]

/-! ### The frame of a step -/

/-- What every step leaves: the parameters (00_scope.md R11), a released clock output (10_state.md R23), and the events already
in the trace (00_scope.md R10). -/
structure StepFrame (s t : State) : Prop where
  cfg : t.cfg = s.cfg
  clock_released : s.sclOut = true → t.sclOut = true
  trace : ∃ es, t.trace = s.trace ++ es

/-- An update that writes none of the three is within the frame. -/
theorem StepFrame.of_unwritten {s t : State} (hcfg : t.cfg = s.cfg) (hclock : t.sclOut = s.sclOut)
    (htrace : t.trace = s.trace) : StepFrame s t :=
  ⟨hcfg, fun h => hclock.trans h, [], htrace.trans (List.append_nil _).symm⟩

theorem StepFrame.refl (s : State) : StepFrame s s := .of_unwritten rfl rfl rfl

/-- The frame of two operations in turn. -/
theorem StepFrame.trans {s t u : State} (h : StepFrame s t) (k : StepFrame t u) : StepFrame s u := by
  obtain ⟨es, he⟩ := h.trace
  obtain ⟨fs, hf⟩ := k.trace
  exact ⟨k.cfg.trans h.cfg, fun hs => k.clock_released (h.clock_released hs), es ++ fs, by rw [hf, he, List.append_assoc]⟩

/-- An update that writes none of the three may come first. -/
theorem StepFrame.after_unwritten {s t u : State} (k : StepFrame t u) (hcfg : t.cfg = s.cfg) (hclock : t.sclOut = s.sclOut)
    (htrace : t.trace = s.trace) : StepFrame s u :=
  (StepFrame.of_unwritten hcfg hclock htrace).trans k

/-- The frame of the one state an operation answers. -/
theorem StepFrame.of_next {s t u : State} (h : (.next u : Result) = .next t) (f : StepFrame s u) : StepFrame s t := by
  cases h
  exact f

/-- The completion of a byte is within the frame of a step. -/
theorem ByteFrame.stepFrame {s t : State} (h : ByteFrame s t) : StepFrame s t :=
  ⟨h.cfg, fun hs => h.sclOut.trans hs, h.trace⟩

/-- A pipeline operation is within the frame of a step: the clock output is on the bus side. -/
theorem PipelineFrame.stepFrame {s t : State} (h : PipelineFrame s t) : StepFrame s t := by
  obtain ⟨-, -, hclock, -⟩ := h.bus
  exact ⟨h.cfg, fun hs => hclock.trans hs, h.trace⟩

/-! ### The frame of the line calls -/

theorem startCondition_stepFrame (s : State) : StepFrame s (startCondition s) := .of_unwritten rfl rfl rfl

/-- STOP appends its event (40_bus_protocol.md R147). -/
theorem stopCondition_stepFrame (s : State) : StepFrame s (stopCondition s) := ⟨rfl, id, _, rfl⟩

/-- Device reset releases the clock output and keeps parameters and trace (70_reset_and_hazards.md R340). -/
theorem deviceReset_stepFrame (s : State) : StepFrame s (deviceReset s) := ⟨rfl, fun _ => rfl, [], (List.append_nil _).symm⟩

theorem ackRise_stepFrame (s : State) : StepFrame s (ackRise s) := by
  unfold ackRise
  split
  · exact .of_unwritten rfl rfl rfl
  · exact .refl s

theorem ackFall_stepFrame (s : State) : StepFrame s (ackFall s) := by
  unfold ackFall
  split
  · exact .of_unwritten rfl rfl rfl
  · exact .refl s

/-- The frame of a bit cell: only the eighth completes a byte (40_bus_protocol.md R152). -/
theorem bitCell_stepFrame {s t : State} (h : bitCell s = .next t) : StepFrame s t := by
  cases hi : s.bitIdx with
  | none => simp [bitCell, hi] at h
  | some i =>
    refine .of_next ((bitCell_some hi).symm.trans h) ?_
    split
    · exact (byteComplete_frame _).stepFrame.after_unwritten rfl rfl rfl
    · exact .of_unwritten rfl rfl rfl

/-- The frame of a clock rise: a bit cell in `Started`, else an acknowledge cell's (40_bus_protocol.md R142). -/
theorem clockRise_stepFrame {s t : State} (h : clockRise s = .next t) : StepFrame s t := by
  unfold clockRise at h
  split at h
  · exact bitCell_stepFrame h
  · exact .of_next h (ackRise_stepFrame s)

/-- The frame of SetClock: no edge, a rise, a fall (40_bus_protocol.md R142). -/
theorem execSetClock_stepFrame {l : Bool} {s t : State} (h : execSetClock l s = .next t) : StepFrame s t := by
  unfold execSetClock at h
  split at h
  · exact .of_next h (.refl s)
  split at h
  · exact (clockRise_stepFrame h).after_unwritten rfl rfl rfl
  · exact .of_next h ((ackFall_stepFrame _).after_unwritten rfl rfl rfl)

/-- The frame of SetData: no edge; with the clock high a rise right after START, a STOP, a START; with the clock low a data
change (40_bus_protocol.md R143). -/
theorem execSetData_stepFrame {l : Bool} {s t : State} (h : execSetData l s = .next t) : StepFrame s t := by
  unfold execSetData at h
  split at h
  · exact .of_next h (.refl s)
  split at h
  · split at h
    · split at h
      · exact .of_next h (.of_unwritten rfl rfl rfl)
      · exact .of_next h ((stopCondition_stepFrame _).after_unwritten rfl rfl rfl)
    · exact .of_next h ((startCondition_stepFrame _).after_unwritten rfl rfl rfl)
  · exact .of_next h (.of_unwritten rfl rfl rfl)

/-! ### The frame of the byte rows -/

/-- The frame of the bit cells of a byte (40_bus_protocol.md R150 to R152). -/
theorem clockIn_stepFrame (b : Byte) (s : State) : StepFrame s (clockIn b s) := .of_unwritten rfl rfl rfl

/-- The frame of the bit cells of a byte that is then acknowledged. -/
theorem acknowledge_clockIn_stepFrame (b : Byte) (s : State) : StepFrame s (acknowledge (clockIn b s)) :=
  .of_unwritten rfl rfl rfl

/-- The frame of an address row (40_bus_protocol.md R153). -/
theorem addressRow_stepFrame (b : Byte) (s : State) : StepFrame s (addressByte b (clockIn b s)) :=
  (clockIn_stepFrame b s).trans (addressByte_frame b _).stepFrame

/-- The frame of a selection (41_command_interpreter.md R181). -/
theorem select_stepFrame (b : Byte) (s : State) : StepFrame s (select b s) := by
  unfold select
  repeat' split
  all_goals exact .of_unwritten rfl rfl rfl

/-- The frame of a selector row. -/
theorem selectorRow_stepFrame (b : Byte) (s : State) : StepFrame s (select b (acknowledge (clockIn b s))) :=
  (acknowledge_clockIn_stepFrame b s).trans (select_stepFrame b _)

/-- The frame of a read group (41_command_interpreter.md R184). -/
theorem dataRead_stepFrame (s : State) : StepFrame s (dataRead s) := by
  unfold dataRead
  split
  · exact (enterNak_frame s).stepFrame
  · exact .of_unwritten rfl rfl rfl

/-- A control byte appends its event (41_command_interpreter.md R183). -/
theorem controlByte_stepFrame (b : Byte) (s : State) : StepFrame s (controlByte b s) :=
  ⟨rfl, id, _, rfl⟩

/-- The frame of one byte of a command, consumed or clocked past in `Nak`. -/
theorem commandWireByte_stepFrame (s : State) (b : Byte) : StepFrame s (commandWireByte s b) := by
  unfold commandWireByte
  split
  · exact .of_unwritten rfl rfl rfl
  · exact (acknowledge_clockIn_stepFrame b s).trans (dataWrite_frame b _).stepFrame

/-- The frame of a command row, by induction on its bytes. -/
theorem commandWireBytes_stepFrame (bs : List Byte) (s : State) : StepFrame s (commandWireBytes bs s) := by
  induction bs generalizing s with
  | nil => exact .refl s
  | cons b bs ih => exact (commandWireByte_stepFrame s b).trans (ih _)

/-! ### The frame of the pipeline calls -/

/-- A byte fed appends its demand event (43_decode_pipeline.md R264). -/
theorem feedByte_stepFrame (o : Oracles) (b : Byte) (s : State) : StepFrame s (feedByte o b s) := by
  obtain ⟨d, f, e⟩ := feedByte_eq o b s
  rw [e]
  exact ⟨rfl, id, _, rfl⟩

/-! ### The frame of every operation -/

/-- Every operation that answers a next state keeps within the frame. -/
theorem exec_stepFrame {i : Instr} {s t : State} (h : exec i s = .next t) : StepFrame s t := by
  cases i with
  | setClock l => exact execSetClock_stepFrame h
  | setData l => exact execSetData_stepFrame h
  | readClock | readData => exact .of_next h (.of_unwritten rfl rfl rfl)
  | feedByte b => exact .of_next h (feedByte_stepFrame _ b s)
  | produce n => exact .of_next h ((produce_frame _ n s).stepFrame.trans (.of_unwritten rfl rfl rfl))
  | reset => exact .of_next h (deviceReset_stepFrame s)
  | start => exact .of_next h (startCondition_stepFrame s)
  | stop => exact .of_next h (stopCondition_stepFrame s)
  | bitcell => exact bitCell_stepFrame h
  | ackcell => exact .of_next h ((ackRise_stepFrame s).trans (ackFall_stepFrame _))
  | addrWrite | addrRead | addrMismatch => exact .of_next h (addressRow_stepFrame _ s)
  | selDataWrite | selDataRead | selControl | selBad => exact .of_next h (selectorRow_stepFrame _ s)
  | run | rdctl | wrreg | wrmem | rdreg | rdmem | bad2 | bad47 | bad8 | badC =>
    exact .of_next h (commandWireBytes_stepFrame _ s)
  | dataReadGroup b => exact .of_next h ((acknowledge_clockIn_stepFrame b s).trans (dataRead_stepFrame _))
  | controlByte b => exact .of_next h ((acknowledge_clockIn_stepFrame b s).trans (controlByte_stepFrame b _))
  | badByte b => exact .of_next h (acknowledge_clockIn_stepFrame b s)
  | regWrite a v => exact .of_next h (regWrite_frame a v s).byteFrame.stepFrame
  | memWrite bank a v => exact .of_next h (memWrite_frame bank a v s).byteFrame.stepFrame
  | fill => exact .of_next h (fill_frame _ s).stepFrame

/-- Every step keeps within the frame: it waits, runs an operation on a state with another input, or only rewrites the input. -/
theorem step_stepFrame {s t : State} (h : step s = .next t) : StepFrame s t := by
  rcases step_cases h with ⟨-, rfl⟩ | ⟨k, rest, -, hx⟩ | ⟨bs, rest, f, i, tail, -, -, -, hx⟩ | ⟨bs, rest, inp, -, rfl⟩
  · exact .refl _
  · exact (exec_stepFrame hx).after_unwritten rfl rfl rfl
  · exact (exec_stepFrame hx).after_unwritten rfl rfl rfl
  · exact .of_unwritten rfl rfl rfl

/-! ### The obligations -/

/-- Settles O8, from the frame of every step. -/
theorem stepKeepsParametersAndClockOutput : Obligations.StepKeepsParametersAndClockOutput := by
  intro s t h
  have f := step_stepFrame h
  exact ⟨f.cfg, f.clock_released⟩

/-- Settles O9, from the frame of every step. -/
theorem stepOnlyAppendsEvents : Obligations.StepOnlyAppendsEvents := by
  intro s t h
  exact (step_stepFrame h).trace

/-- Settles O1, one clause for each thing the next input item can be: an operation, nothing, a byte that begins no row. -/
theorem stepRunsDecodedOperation : Obligations.StepRunsDecodedOperation := by
  refine ⟨?_, ?_, ?_⟩
  · intro s item rest i tail hin hd
    exact step_of_decoded hin hd
  · intro s hin
    exact step_of_input_nil hin
  · intro s b tail rest e hin hd
    exact step_of_undecoded hin hd

end Sys2Proof.Machine
end

section
/-! SUPPORT. What the payload may hold after a step (O11), and a bit cell without a bit index (O23). -/

namespace Sys2Proof.Machine

open Sys2Proof.Config

/-! ### Decoded bytes have the format they were decoded at -/

/-- What a command byte begins is a command row, whatever its high nibble (30_encoding.md R107). -/
theorem decodeCommand_format {b : Byte} {bs tail : List Byte} {i : Instr} (h : decodeCommand b bs = .ok (i, tail)) :
    i.format = some .command := by
  unfold decodeCommand at h
  repeat' split at h
  all_goals cases h
  all_goals rfl

theorem decodeAddress_format (c : Params) (b : Byte) : (decodeAddress c b).format = some .address := by
  unfold decodeAddress
  repeat' split
  all_goals rfl

theorem decodeSelector_format (c : Params) (b : Byte) : (decodeSelector c b).format = some .selector := by
  unfold decodeSelector
  repeat' split
  all_goals rfl

theorem decodeBytes_format {c : Params} {f : ByteFormat} {bs tail : List Byte} {i : Instr}
    (h : decodeBytes c f bs = .ok (i, tail)) : i.format = some f := by
  cases bs with
  | nil => cases h
  | cons b bs =>
    cases f with
    | address => cases h; exact decodeAddress_format c b
    | selector => cases h; exact decodeSelector_format c b
    | command => exact decodeCommand_format h
    | read | control | bad => cases h; rfl

/-- Wire bytes never decode to an input event or an internal row: those have no format. -/
theorem decodeBytes_ne_reset {c : Params} {f : ByteFormat} {bs tail : List Byte} {i : Instr}
    (h : decodeBytes c f bs = .ok (i, tail)) : i ≠ .reset := by
  rintro rfl
  cases decodeBytes_format h

/-! ### The bit cell and the line calls, by case -/

/-- A bit cell without a bit index stops the model (10_state.md R27). -/
theorem bitCell_none {s : State} (h : s.bitIdx = none) : bitCell s = .fault .bitIndexSpent := by
  simp only [bitCell, h]

/-- A bit cell that answers samples, drives and counts, and its eighth completes the byte (40_bus_protocol.md R150 to R152). -/
theorem bitCell_cases {s t : State} (h : bitCell s = .next t) :
    ∃ acc sda idx, t = { s with acc := acc, sdaOut := sda, bitIdx := idx } ∨
      t = byteComplete { s with acc := acc, sdaOut := sda, bitIdx := idx } := by
  cases hi : s.bitIdx with
  | none => rw [bitCell_none hi] at h; cases h
  | some i =>
    rw [bitCell_some hi] at h
    split at h
    · cases h; exact ⟨_, _, _, .inr rfl⟩
    · cases h; exact ⟨_, _, _, .inl rfl⟩

/-- A clock rise in an acknowledge cell moves the bus state only (40_bus_protocol.md R155). -/
theorem ackRise_eq (s : State) : ∃ bus, ackRise s = { s with busState := bus } := by
  unfold ackRise
  split
  · exact ⟨_, rfl⟩
  · exact ⟨s.busState, rfl⟩

/-- A clock fall in an acknowledge cell moves the bus state and makes ready for the next byte (40_bus_protocol.md R157). -/
theorem ackFall_eq (s : State) : ∃ bus idx acc, ackFall s = { s with busState := bus, bitIdx := idx, acc := acc } := by
  unfold ackFall
  split
  · exact ⟨_, _, _, rfl⟩
  · exact ⟨s.busState, s.bitIdx, s.acc, rfl⟩

/-- SetClock runs a bit cell on a rise in `Started`, and else moves the clock level and the acknowledge cell
(40_bus_protocol.md R142). -/
theorem execSetClock_cases {l : Bool} {s t : State} (h : execSetClock l s = .next t) :
    bitCell { s with sclIn := true } = .next t ∨
    ∃ bus idx acc, t = { s with sclIn := l, busState := bus, bitIdx := idx, acc := acc } := by
  unfold execSetClock clockRise at h
  split at h
  · rename_i hl
    cases h
    exact .inr ⟨s.busState, s.bitIdx, s.acc, by rw [hl]⟩
  split at h
  · rename_i hl
    split at h
    · exact .inl h
    · obtain ⟨bus, hb⟩ := ackRise_eq { s with sclIn := true }
      cases h
      exact .inr ⟨bus, s.bitIdx, s.acc, by rw [hb, hl]⟩
  · rename_i hl
    obtain ⟨bus, idx, acc, hb⟩ := ackFall_eq { s with sclIn := false }
    cases h
    exact .inr ⟨bus, idx, acc, by rw [hb, Bool.eq_false_iff.mpr hl]⟩

/-- SetData moves the data level, or is a STOP or a START (40_bus_protocol.md R143). -/
theorem execSetData_cases {l : Bool} {s t : State} (h : execSetData l s = .next t) :
    t = { s with sdaIn := l } ∨ t = stopCondition { s with sdaIn := true } ∨ t = startCondition { s with sdaIn := false } := by
  unfold execSetData at h
  split at h
  · rename_i hl
    cases h
    exact .inl (by rw [hl])
  split at h
  · split at h
    · rename_i hl
      split at h
      · cases h; exact .inl (by rw [hl])
      · cases h; exact .inr (.inl rfl)
    · cases h; exact .inr (.inr rfl)
  · cases h; exact .inl rfl

/-! ### Loading the payload -/

/-- What the bus side does with the payload: it leaves it or loads it from the frame counter, which it leaves
(10_state.md R36, 41_command_interpreter.md R200). Keeping the counter in the relation makes it transitive. -/
structure PayloadLoad (s t : State) : Prop where
  payload : t.payload = s.payload ∨ t.payload = transpose s.frameCounter
  frameCounter : t.frameCounter = s.frameCounter

theorem PayloadLoad.of_unwritten {s t : State} (hp : t.payload = s.payload) (hc : t.frameCounter = s.frameCounter) :
    PayloadLoad s t := ⟨.inl hp, hc⟩

theorem PayloadLoad.refl (s : State) : PayloadLoad s s := .of_unwritten rfl rfl

/-- Two operations in turn: the second loads from the counter the first left. -/
theorem PayloadLoad.trans {s t u : State} (h : PayloadLoad s t) (k : PayloadLoad t u) : PayloadLoad s u := by
  refine ⟨?_, k.frameCounter.trans h.frameCounter⟩
  rcases k.payload with hk | hk
  · rw [hk]; exact h.payload
  · rw [hk, h.frameCounter]; exact .inr rfl

/-- An update that writes neither may come first. -/
theorem PayloadLoad.after_unwritten {s t u : State} (k : PayloadLoad t u) (hp : t.payload = s.payload)
    (hc : t.frameCounter = s.frameCounter) : PayloadLoad s u := (PayloadLoad.of_unwritten hp hc).trans k

/-- The completion of a byte loads the payload or leaves it. -/
theorem ByteFrame.payloadLoad {s t : State} (h : ByteFrame s t) : PayloadLoad s t := by
  obtain ⟨hcounter, -⟩ := h.pipeline
  exact ⟨h.payload, hcounter⟩

theorem bitCell_payloadLoad {s t : State} (h : bitCell s = .next t) : PayloadLoad s t := by
  obtain ⟨acc, sda, idx, rfl | rfl⟩ := bitCell_cases h
  · exact .of_unwritten rfl rfl
  · exact (byteComplete_frame _).payloadLoad.after_unwritten rfl rfl

theorem execSetClock_payloadLoad {l : Bool} {s t : State} (h : execSetClock l s = .next t) : PayloadLoad s t := by
  obtain hcell | ⟨bus, idx, acc, rfl⟩ := execSetClock_cases h
  · exact (bitCell_payloadLoad hcell).after_unwritten rfl rfl
  · exact .of_unwritten rfl rfl

theorem execSetData_payloadLoad {l : Bool} {s t : State} (h : execSetData l s = .next t) : PayloadLoad s t := by
  obtain rfl | rfl | rfl := execSetData_cases h <;> exact .of_unwritten rfl rfl

theorem ackcell_payloadLoad (s : State) : PayloadLoad s (ackFall (ackRise s)) := by
  obtain ⟨bus, hrise⟩ := ackRise_eq s
  obtain ⟨bus', idx, acc, hfall⟩ := ackFall_eq (ackRise s)
  rw [hfall, hrise]
  exact .of_unwritten rfl rfl

/-- The selection of `data-read` is the one load (41_command_interpreter.md R200). -/
theorem select_payloadLoad (b : Byte) (s : State) : PayloadLoad s (select b s) := by
  unfold select
  split
  · exact .of_unwritten rfl rfl
  split
  · exact ⟨.inr rfl, rfl⟩
  split <;> exact .of_unwritten rfl rfl

theorem dataRead_payloadLoad (s : State) : PayloadLoad s (dataRead s) := by
  unfold dataRead
  split <;> exact .of_unwritten rfl rfl

/-- The bit cells of an acknowledged byte leave the payload. -/
theorem acknowledge_clockIn_payloadLoad (b : Byte) (s : State) : PayloadLoad s (acknowledge (clockIn b s)) :=
  .of_unwritten rfl rfl

theorem commandWireByte_payloadLoad (s : State) (b : Byte) : PayloadLoad s (commandWireByte s b) := by
  unfold commandWireByte
  split
  · exact .of_unwritten rfl rfl
  · exact (acknowledge_clockIn_payloadLoad b s).trans (dataWrite_frame b _).payloadLoad

/-- A command row, by induction on its bytes. -/
theorem commandWireBytes_payloadLoad (bs : List Byte) (s : State) : PayloadLoad s (commandWireBytes bs s) := by
  induction bs generalizing s with
  | nil => exact .refl s
  | cons b bs ih => exact (commandWireByte_payloadLoad s b).trans (ih _)

/-- The pipeline leaves the payload, though it writes the counter. -/
theorem PipelineFrame.payload {s t : State} (h : PipelineFrame s t) : t.payload = s.payload := by
  obtain ⟨-, -, -, -, -, -, -, -, -, -, -, -, -, -, -, hpayload, -⟩ := h.bus
  exact hpayload

theorem feedByte_payload (o : Oracles) (b : Byte) (s : State) : (feedByte o b s).payload = s.payload := by
  obtain ⟨d, f, e⟩ := feedByte_eq o b s
  rw [e]

/-! ### Every operation -/

/-- Where the payload of the next state comes from, given whether device reset ran. -/
def PayloadSource (reset : Prop) (s t : State) : Prop :=
  t.payload = s.payload ∨ t.payload = transpose s.frameCounter ∨ (reset ∧ t.payload = 0#32)

theorem PayloadLoad.source {s t : State} (h : PayloadLoad s t) (reset : Prop) : PayloadSource reset s t :=
  h.payload.imp_right .inl

/-- The payload of the one state an operation answers. -/
theorem PayloadSource.of_next {reset : Prop} {s t u : State} (h : (.next u : Result) = .next t)
    (f : PayloadSource reset s u) : PayloadSource reset s t := by
  cases h
  exact f

/-- An operation on the bus side loads the payload or leaves it, one of the pipeline leaves it, and device reset clears it. -/
theorem exec_payloadSource {i : Instr} {s t : State} (h : exec i s = .next t) : PayloadSource (i = .reset) s t := by
  cases i with
  | setClock l => exact (execSetClock_payloadLoad h).source _
  | setData l => exact (execSetData_payloadLoad h).source _
  | readClock | readData => exact .of_next h (.inl rfl)
  | feedByte b => exact .of_next h (.inl (feedByte_payload _ b s))
  | produce n => exact .of_next h (.inl (produce_frame _ n s).payload)
  | reset => exact .of_next h (.inr (.inr ⟨rfl, rfl⟩))
  | start | stop => exact .of_next h (.inl rfl)
  | bitcell => exact (bitCell_payloadLoad h).source _
  | ackcell => exact .of_next h ((ackcell_payloadLoad s).source _)
  | addrWrite | addrRead | addrMismatch =>
    exact .of_next h (((addressByte_frame _ (clockIn _ s)).payloadLoad.after_unwritten rfl rfl).source _)
  | selDataWrite | selDataRead | selControl | selBad =>
    exact .of_next h (((acknowledge_clockIn_payloadLoad _ s).trans (select_payloadLoad _ _)).source _)
  | run | rdctl | wrreg | wrmem | rdreg | rdmem | bad2 | bad47 | bad8 | badC =>
    exact .of_next h ((commandWireBytes_payloadLoad _ s).source _)
  | dataReadGroup b =>
    exact .of_next h (((acknowledge_clockIn_payloadLoad b s).trans (dataRead_payloadLoad _)).source _)
  | controlByte | badByte => exact .of_next h (.inl rfl)
  | regWrite a v => exact .of_next h ((regWrite_frame a v s).byteFrame.payloadLoad.source _)
  | memWrite bank a v => exact .of_next h ((memWrite_frame bank a v s).byteFrame.payloadLoad.source _)
  | fill => exact .of_next h (.inl (fill_frame _ s).payload)

/-- Only the input event runs device reset in a step. -/
theorem step_payloadSource {s t : State} (h : step s = .next t) :
    PayloadSource (s.input.head? = some (.call .reset)) s t := by
  rcases step_cases h with ⟨-, rfl⟩ | ⟨k, rest, hin, hx⟩ | ⟨bs, rest, f, i, tail, -, -, hd, hx⟩ | ⟨bs, rest, inp, -, rfl⟩
  · exact .inl rfl
  · have hcall : k.toInstr = .reset → s.input.head? = some (.call .reset) := by
      intro hk
      rw [hin]
      cases k <;> cases hk
      rfl
    exact (exec_payloadSource hx).imp_right (.imp_right fun ⟨hk, hp⟩ => ⟨hcall hk, hp⟩)
  · have hreset : i ≠ .reset := decodeBytes_ne_reset hd
    exact (exec_payloadSource hx).imp_right (.imp_right fun ⟨hi, _⟩ => absurd hi hreset)
  · exact .inl rfl

/-! ### The transposition as shifts and masks -/

/-- The mask of R200 that keeps the low byte of each half. -/
theorem lowByteMask_bit (i : Nat) (hi : i < 32) :
    (0x00FF00FF#32).getLsbD i = decide (i < 8 ∨ (16 ≤ i ∧ i < 24)) := by
  revert i; decide

/-- The mask of R200 that keeps the high byte of each half. -/
theorem highByteMask_bit (i : Nat) (hi : i < 32) :
    (0xFF00FF00#32).getLsbD i = !decide (i < 8 ∨ (16 ≤ i ∧ i < 24)) := by
  revert i; decide

/-- The payload transposition swaps the bytes of each half (41_command_interpreter.md R200). -/
theorem transpose_eq_shifts (f : Quad) :
    transpose f = ((f >>> 8) &&& 0x00FF00FF#32) ||| ((f <<< 8) &&& 0xFF00FF00#32) := by
  apply BitVec.eq_of_getLsbD_eq
  intro i hi
  rw [transpose_bit, BitVec.getLsbD_or, BitVec.getLsbD_and, BitVec.getLsbD_and, lowByteMask_bit i hi,
    highByteMask_bit i hi, BitVec.getLsbD_ushiftRight, BitVec.getLsbD_shiftLeft]
  by_cases h8 : i < 8
  · simp [h8]
  by_cases h16 : i < 16
  · simp [h8, h16, hi, show ¬ 16 ≤ i by omega]
  by_cases h24 : i < 24
  · simp [h8, h16, h24, show 16 ≤ i by omega]
  · simp [h8, h16, h24, hi]

/-! ### The obligations -/

/-- Settles O11: where the payload of a step comes from, the load written as R200's shifts. -/
theorem payloadIsASnapshot : Obligations.PayloadIsASnapshot := by
  intro s t h
  rw [← transpose_eq_shifts]
  exact step_payloadSource h

/-- Settles O23: the fault of a bit cell, and the invariant's clause about `Started` (10_state.md R27). -/
theorem bitCellWithoutIndexStops : Obligations.BitCellWithoutIndexStops := by
  refine ⟨fun s h => bitCell_none h, ?_⟩
  intro s hinv hstarted hnone
  obtain ⟨-, i, hi, -⟩ := hinv.started_index hstarted
  rw [hnone] at hi
  cases hi

end Sys2Proof.Machine
end

section
/-! SUPPORT. The decoder and the encoder are inverse to each other (O3, O4), and which byte strings are read (O5, O2). -/

namespace Sys2Proof

open Sys2Proof.Config Sys2Proof.Machine

/-! ### The bit fields of one byte, put together again -/

/-- The direction bit below the device address (30_encoding.md R104). -/
theorem addr7_append_direction (b : Byte) : addr7 b ++ BitVec.ofBool (b.getLsbD 0) = b := by
  revert b; decide

/-- The direction bit of a byte built from an address and a direction. -/
theorem direction_append (a : BitVec 7) (d : Bool) : (a ++ BitVec.ofBool d).getLsbD 0 = d := by
  revert a d; decide

/-- A byte whose high nibble is known. -/
theorem append_nibbleLo {b : Byte} {h : BitVec 4} (hb : nibbleHi b = h) : h ++ nibbleLo b = b := by
  rw [← hb, nibbleHi_append_nibbleLo]

/-- The lowest bit of the high nibble is bit 4 of the byte. -/
theorem nibbleHi_bit0 (b : Byte) : (nibbleHi b).getLsbD 0 = b.getLsbD 4 := by
  revert b; decide

/-- A 3-bit opcode leaves two high nibbles: bit 4 of the byte is an operand. -/
theorem nibbleHi_op3_iff (b : Byte) (p : BitVec 3) :
    (nibbleHi b = p ++ 0#1 ∨ nibbleHi b = p ++ 1#1) ↔ nibbleHi b = p ++ BitVec.ofBool (b.getLsbD 4) := by
  rw [← nibbleHi_bit0]
  generalize nibbleHi b = h
  revert h p; decide

/-- A byte with a 3-bit opcode, put together from the opcode, bit 4 and the low nibble. -/
theorem append_op3_nibbleLo {b : Byte} {p : BitVec 3} (h : nibbleHi b = p ++ 0#1 ∨ nibbleHi b = p ++ 1#1) :
    p ++ BitVec.ofBool (b.getLsbD 4) ++ nibbleLo b = b :=
  append_nibbleLo ((nibbleHi_op3_iff b p).mp h)

/-- The two high nibbles of a byte built from a 3-bit opcode. -/
theorem op3_nibble_cases (p : BitVec 3) (x : Bool) (l : BitVec 4) :
    nibbleHi (p ++ BitVec.ofBool x ++ l) = p ++ 0#1 ∨ nibbleHi (p ++ BitVec.ofBool x ++ l) = p ++ 1#1 := by
  rw [nibbleHi_op3_iff, op3_nibble, op3_bit4]

/-- The four high nibbles of BAD_4_7 (30_encoding.md R107). -/
theorem op2_nibble_cases (x : BitVec 6) :
    nibbleHi (0b01#2 ++ x) = 0x4#4 ∨ nibbleHi (0b01#2 ++ x) = 0x5#4 ∨ nibbleHi (0b01#2 ++ x) = 0x6#4 ∨
      nibbleHi (0b01#2 ++ x) = 0x7#4 := by
  revert x; decide

/-- A byte of BAD_4_7, put together from its opcode and its low six bits. -/
theorem append_op2_low {b : Byte}
    (h : nibbleHi b = 0x4#4 ∨ nibbleHi b = 0x5#4 ∨ nibbleHi b = 0x6#4 ∨ nibbleHi b = 0x7#4) :
    0b01#2 ++ b.extractLsb' 0 6 = b := by
  revert b; decide

/-! ### Address and selector bytes -/

/-- An address byte for the device, by its direction (30_encoding.md R104). -/
theorem decodeAddress_own (c : Params) (d : Bool) :
    decodeAddress c (c.devAddr ++ BitVec.ofBool d) = if d then .addrRead c.devAddr else .addrWrite c.devAddr := by
  unfold decodeAddress
  rw [addr7_append, if_pos rfl, direction_append]

theorem decodeAddress_other {c : Params} {b : Byte} (h : addr7 b ≠ c.devAddr) : decodeAddress c b = .addrMismatch b := by
  unfold decodeAddress
  rw [if_neg h]

/-- A well-formed address row is one byte, which is read as the row (30_encoding.md R104). -/
theorem decodeAddress_encode {c : Params} {i : Instr} (hwf : wellFormed c i = true) (hf : i.format = some .address) :
    ∃ b, encode c i = [b] ∧ decodeAddress c b = i := by
  cases i with
  | addrWrite a =>
    obtain rfl : a = c.devAddr := beq_iff_eq.mp hwf
    exact ⟨_, rfl, decodeAddress_own c false⟩
  | addrRead a =>
    obtain rfl : a = c.devAddr := beq_iff_eq.mp hwf
    exact ⟨_, rfl, decodeAddress_own c true⟩
  | addrMismatch b => exact ⟨_, rfl, decodeAddress_other (bne_iff_ne.mp hwf)⟩
  | _ => cases hf

/-- What an address byte is read as is well-formed and encodes to the byte. -/
theorem decodeAddress_inverse (c : Params) (b : Byte) :
    wellFormed c (decodeAddress c b) = true ∧ encode c (decodeAddress c b) = [b] := by
  by_cases hown : addr7 b = c.devAddr
  · obtain ⟨d, rfl⟩ : ∃ d, b = c.devAddr ++ BitVec.ofBool d := ⟨b.getLsbD 0, by rw [← hown, addr7_append_direction]⟩
    rw [decodeAddress_own]
    cases d <;> exact ⟨beq_self_eq_true _, rfl⟩
  · rw [decodeAddress_other hown]
    exact ⟨bne_iff_ne.mpr hown, rfl⟩

/-- The selector constants of admissible parameters are pairwise distinct (00_scope.md R11). -/
theorem selectors_distinct {c : Params} (h : c.ok = true) :
    c.selDataWrite ≠ c.selDataRead ∧ c.selDataWrite ≠ c.selControl ∧ c.selDataRead ≠ c.selControl := by
  unfold Params.ok at h
  simp only [Bool.and_eq_true, decide_eq_true_eq] at h
  obtain ⟨⟨hsel, -⟩, -⟩ := h
  exact hsel

theorem decodeSelector_dataWrite (c : Params) : decodeSelector c c.selDataWrite = .selDataWrite := by
  unfold decodeSelector
  rw [if_pos rfl]

theorem decodeSelector_dataRead {c : Params} (h : c.ok = true) : decodeSelector c c.selDataRead = .selDataRead := by
  obtain ⟨hwr, -, -⟩ := selectors_distinct h
  unfold decodeSelector
  rw [if_neg hwr.symm, if_pos rfl]

theorem decodeSelector_control {c : Params} (h : c.ok = true) : decodeSelector c c.selControl = .selControl := by
  obtain ⟨-, hwc, hrc⟩ := selectors_distinct h
  unfold decodeSelector
  rw [if_neg hwc.symm, if_neg hrc.symm, if_pos rfl]

theorem wellFormed_selBad_iff (c : Params) (b : Byte) :
    wellFormed c (.selBad b) = true ↔ b ≠ c.selDataWrite ∧ b ≠ c.selDataRead ∧ b ≠ c.selControl := by
  simp only [wellFormed, Bool.and_eq_true, bne_iff_ne, and_assoc]

theorem decodeSelector_bad {c : Params} {b : Byte} (h : wellFormed c (.selBad b) = true) :
    decodeSelector c b = .selBad b := by
  obtain ⟨hw, hr, hc⟩ := (wellFormed_selBad_iff c b).mp h
  unfold decodeSelector
  rw [if_neg hw, if_neg hr, if_neg hc]

/-- A well-formed selector row is one byte, which is read as the row (30_encoding.md R105). -/
theorem decodeSelector_encode {c : Params} {i : Instr} (hok : c.ok = true) (hwf : wellFormed c i = true)
    (hf : i.format = some .selector) : ∃ b, encode c i = [b] ∧ decodeSelector c b = i := by
  cases i with
  | selDataWrite => exact ⟨_, rfl, decodeSelector_dataWrite c⟩
  | selDataRead => exact ⟨_, rfl, decodeSelector_dataRead hok⟩
  | selControl => exact ⟨_, rfl, decodeSelector_control hok⟩
  | selBad b => exact ⟨_, rfl, decodeSelector_bad hwf⟩
  | _ => cases hf

/-- What a selector byte is read as is well-formed and encodes to the byte: by the constant it equals, if any. -/
theorem decodeSelector_inverse (c : Params) (b : Byte) :
    wellFormed c (decodeSelector c b) = true ∧ encode c (decodeSelector c b) = [b] := by
  unfold decodeSelector
  split
  · next hw => exact ⟨rfl, by rw [hw]; rfl⟩
  split
  · next hr => exact ⟨rfl, by rw [hr]; rfl⟩
  split
  · next hc => exact ⟨rfl, by rw [hc]; rfl⟩
  · next hw hr hc => exact ⟨(wellFormed_selBad_iff c b).mpr ⟨hw, hr, hc⟩, rfl⟩

/-! ### Commands: reading back what was encoded -/

/-- The head of WRMEM with as many words after it as it declares (30_encoding.md R111). -/
theorem decodeCommand_encode_wrmem (bank : Bool) (x : BitVec 4) (n a : Half) (ws : List WireWord) (rest : List Byte)
    (h : ws.length = n.toNat) :
    decodeCommand (0b101#3 ++ BitVec.ofBool bank ++ x)
        (byteHi n :: byteLo n :: byteHi a :: byteLo a :: (ws.flatMap encodeWord ++ rest)) =
      .ok (.wrmem bank x n a ws, rest) := by
  rw [decodeCommand_wrmem (op3_nibble_cases _ _ _), byteHi_append_byteLo, byteHi_append_byteLo, ← h,
    takeWords_of_encodeWord, op3_bit4, op3_low]

/-- The encoding of a well-formed command is read back, by its row (30_encoding.md R107 to R113). -/
theorem decodeCommand_encode {c : Params} {i : Instr} (rest : List Byte) (hwf : wellFormed c i = true)
    (hf : i.format = some .command) : decodeBytes c .command (encode c i ++ rest) = .ok (i, rest) := by
  cases i with
  | run x a =>
    have haddr : a.extractLsb' 8 4 ++ a.extractLsb' 0 8 = a := append_extract (n := 4) (m := 8) a
    refine (decodeCommand_run (op3_nibble_cases _ _ _) _ rest).trans ?_
    rw [op3_bit4, op3_low, haddr]
  | rdctl x => exact (decodeCommand_rdctl (nibbleHi_append _ _) rest).trans (by rw [nibbleLo_append])
  | wrreg r x v =>
    have hreg : r.extractLsb' 4 4 ++ r.extractLsb' 0 4 = r := append_extract (n := 4) (m := 4) r
    refine (decodeCommand_wrreg (nibbleHi_append _ _) _ _ _ rest).trans ?_
    rw [nibbleLo_append, nibbleHi_append, nibbleLo_append, hreg, byteHi_append_byteLo]
  | wrmem bank x n a ws => exact decodeCommand_encode_wrmem bank x n a ws rest (beq_iff_eq.mp hwf)
  | rdreg x => exact (decodeCommand_rdreg (nibbleHi_append _ _) rest).trans (by rw [nibbleLo_append])
  | rdmem bank x => exact (decodeCommand_rdmem (op3_nibble_cases _ _ _) rest).trans (by rw [op3_bit4, op3_low])
  | bad2 x => exact (decodeCommand_bad2 (nibbleHi_append _ _) rest).trans (by rw [nibbleLo_append])
  | bad47 x => exact (decodeCommand_bad47 (op2_nibble_cases x) rest).trans (by rw [extract_append_right])
  | bad8 x => exact (decodeCommand_bad8 (nibbleHi_append _ _) rest).trans (by rw [nibbleLo_append])
  | badC x => exact (decodeCommand_badC (nibbleHi_append _ _) rest).trans (by rw [nibbleLo_append])
  | _ => cases hf

/-! ### Commands: what was read -/

/-- The high nibbles of the commands of one byte (30_encoding.md R107). -/
def oneByteCommand (h : BitVec 4) : Bool := 2 ≤ h.toNat && h != 0x9#4 && h != 0xA#4 && h != 0xB#4

/-- The commands by their length: two bytes, four bytes, as many as they declare, one byte (30_encoding.md R107). -/
theorem commandLength_cases (h : BitVec 4) :
    (h = 0x0#4 ∨ h = 0x1#4) ∨ h = 0x9#4 ∨ (h = 0xA#4 ∨ h = 0xB#4) ∨ oneByteCommand h = true := by
  revert h; decide

/-- The commands of one byte, by row. -/
theorem oneByteCommand_cases {h : BitVec 4} (hc : oneByteCommand h = true) :
    h = 0x2#4 ∨ h = 0x3#4 ∨ (h = 0x4#4 ∨ h = 0x5#4 ∨ h = 0x6#4 ∨ h = 0x7#4) ∨ h = 0x8#4 ∨ h = 0xC#4 ∨ h = 0xD#4 ∨
      (h = 0xE#4 ∨ h = 0xF#4) := by
  revert h; decide

/-- A command of one byte takes no byte after it, and encodes to its byte. -/
theorem decodeCommand_oneByte {b : Byte} (h : oneByteCommand (nibbleHi b) = true) :
    ∃ i, (∀ t, decodeCommand b t = .ok (i, t)) ∧ ∀ c, wellFormed c i = true ∧ encode c i = [b] := by
  have ofNibble {p : BitVec 4} (hn : nibbleHi b = p) : [p ++ nibbleLo b] = [b] := congrArg ([·]) (append_nibbleLo hn)
  rcases oneByteCommand_cases h with hn | hn | hn | hn | hn | hn | hn
  · exact ⟨_, decodeCommand_bad2 hn, fun c => ⟨rfl, ofNibble hn⟩⟩
  · exact ⟨_, decodeCommand_rdctl hn, fun c => ⟨rfl, ofNibble hn⟩⟩
  · exact ⟨_, decodeCommand_bad47 hn, fun c => ⟨rfl, congrArg ([·]) (append_op2_low hn)⟩⟩
  · exact ⟨_, decodeCommand_bad8 hn, fun c => ⟨rfl, ofNibble hn⟩⟩
  · exact ⟨_, decodeCommand_badC hn, fun c => ⟨rfl, ofNibble hn⟩⟩
  · exact ⟨_, decodeCommand_rdreg hn, fun c => ⟨rfl, ofNibble hn⟩⟩
  · exact ⟨_, decodeCommand_rdmem hn, fun c => ⟨rfl, congrArg ([·]) (append_op3_nibbleLo hn)⟩⟩

/-- RUN is read with its second byte (30_encoding.md R108). -/
theorem decodeCommand_run_ok_iff {b : Byte} (h : nibbleHi b = 0x0#4 ∨ nibbleHi b = 0x1#4) {bs rest : List Byte} {i : Instr} :
    decodeCommand b bs = .ok (i, rest) ↔
      ∃ b1, bs = b1 :: rest ∧ i = .run (b.getLsbD 4) (nibbleLo b ++ b1) := by
  cases bs with
  | nil => simp [decodeCommand_run_short h]
  | cons b1 t =>
    rw [decodeCommand_run h]
    simp [and_comm, eq_comm]

/-- WRREG is read with its three bytes after the first (30_encoding.md R110). -/
theorem decodeCommand_wrreg_ok_iff {b : Byte} (h : nibbleHi b = 0x9#4) {bs rest : List Byte} {i : Instr} :
    decodeCommand b bs = .ok (i, rest) ↔ ∃ b1 b2 b3, bs = b1 :: b2 :: b3 :: rest ∧
      i = .wrreg (nibbleLo b ++ nibbleHi b1) (nibbleLo b1) (b2 ++ b3) := by
  match bs with
  | [] | [_] | [_, _] => simp [decodeCommand_wrreg_short h]
  | b1 :: b2 :: b3 :: t =>
    rw [decodeCommand_wrreg h]
    simp [and_comm, eq_comm]

/-- WRMEM is read with its four bytes after the first and the words it declares (30_encoding.md R111). -/
theorem decodeCommand_wrmem_ok_iff {b : Byte} (h : nibbleHi b = 0xA#4 ∨ nibbleHi b = 0xB#4) {bs rest : List Byte}
    {i : Instr} :
    decodeCommand b bs = .ok (i, rest) ↔ ∃ n1 n0 a1 a0 t ws, bs = n1 :: n0 :: a1 :: a0 :: t ∧
      takeWords (n1 ++ n0 : Half).toNat t = some (ws, rest) ∧
      i = .wrmem (b.getLsbD 4) (nibbleLo b) (n1 ++ n0) (a1 ++ a0) ws := by
  constructor
  · intro hd
    match bs with
    | [] | [_] | [_, _] | [_, _, _] => rw [decodeCommand_wrmem_short h (by simp)] at hd; cases hd
    | n1 :: n0 :: a1 :: a0 :: t =>
      rw [decodeCommand_wrmem h] at hd
      split at hd
      · next ws t' hws =>
        cases hd
        exact ⟨n1, n0, a1, a0, t, ws, rfl, hws, rfl⟩
      · cases hd
  · rintro ⟨n1, n0, a1, a0, t, ws, rfl, hws, rfl⟩
    rw [decodeCommand_wrmem h, hws]

/-- What a command is read as is well-formed, and encodes to the bytes it was read from. -/
theorem decodeCommand_inverse (c : Params) {b : Byte} {bs rest : List Byte} {i : Instr}
    (hd : decodeCommand b bs = .ok (i, rest)) : wellFormed c i = true ∧ encode c i ++ rest = b :: bs := by
  rcases commandLength_cases (nibbleHi b) with hn | hn | hn | hn
  · obtain ⟨b1, rfl, rfl⟩ := (decodeCommand_run_ok_iff hn).mp hd
    refine ⟨rfl, ?_⟩
    have hb : 0#3 ++ BitVec.ofBool (b.getLsbD 4) ++ nibbleLo b = b := append_op3_nibbleLo hn
    simp only [encode, extract_append_left, extract_append_right, hb, List.cons_append, List.nil_append]
  · obtain ⟨b1, b2, b3, rfl, rfl⟩ := (decodeCommand_wrreg_ok_iff hn).mp hd
    refine ⟨rfl, ?_⟩
    simp only [encode, extract_append_left, extract_append_right, append_nibbleLo hn, nibbleHi_append_nibbleLo,
      byteHi_append, byteLo_append, List.cons_append, List.nil_append]
  · obtain ⟨n1, n0, a1, a0, t, ws, rfl, hws, rfl⟩ := (decodeCommand_wrmem_ok_iff hn).mp hd
    obtain ⟨hlen, hbytes⟩ := encodeWord_of_takeWords hws
    refine ⟨beq_iff_eq.mpr hlen, ?_⟩
    have hb : 0b101#3 ++ BitVec.ofBool (b.getLsbD 4) ++ nibbleLo b = b := append_op3_nibbleLo hn
    simp only [encode, byteHi_append, byteLo_append, hb, List.cons_append, List.nil_append, hbytes]
  · obtain ⟨j, hread, hj⟩ := decodeCommand_oneByte hn
    obtain ⟨hwf, henc⟩ := hj c
    rw [hread] at hd
    cases hd
    exact ⟨hwf, by rw [henc]; rfl⟩

/-- What any format reads is well-formed, and encodes to the bytes it was read from. -/
theorem decodeBytes_inverse {c : Params} {f : ByteFormat} {bs rest : List Byte} {i : Instr}
    (hd : decodeBytes c f bs = .ok (i, rest)) : wellFormed c i = true ∧ encode c i ++ rest = bs := by
  cases bs with
  | nil => cases hd
  | cons b bs =>
    cases f with
    | address =>
      cases hd
      obtain ⟨hwf, henc⟩ := decodeAddress_inverse c b
      exact ⟨hwf, by rw [henc]; rfl⟩
    | selector =>
      cases hd
      obtain ⟨hwf, henc⟩ := decodeSelector_inverse c b
      exact ⟨hwf, by rw [henc]; rfl⟩
    | command => exact decodeCommand_inverse c hd
    | read | control | bad => cases hd; exact ⟨rfl, rfl⟩

/-! ### Which byte strings are read -/

theorem decodeCommand_run_read_iff {b : Byte} (h : nibbleHi b = 0x0#4 ∨ nibbleHi b = 0x1#4) (bs : List Byte) :
    (∃ i t, decodeCommand b bs = .ok (i, t)) ↔ 1 ≤ bs.length := by
  simp only [decodeCommand_run_ok_iff h]
  cases bs <;> simp

theorem decodeCommand_wrreg_read_iff {b : Byte} (h : nibbleHi b = 0x9#4) (bs : List Byte) :
    (∃ i t, decodeCommand b bs = .ok (i, t)) ↔ 3 ≤ bs.length := by
  simp only [decodeCommand_wrreg_ok_iff h]
  match bs with
  | [] | [_] | [_, _] | _ :: _ :: _ :: _ => simp

/-- A count of words, high byte first (30_encoding.md R111). -/
theorem half_toNat (h l : Byte) : (h ++ l : Half).toNat = 256 * h.toNat + l.toNat := by
  rw [BitVec.toNat_append, ← Nat.shiftLeft_add_eq_or_of_lt l.isLt, Nat.shiftLeft_eq, Nat.mul_comm]

theorem exists_takeWords_iff (n : Nat) (bs : List Byte) :
    (∃ ws rest, takeWords n bs = some (ws, rest)) ↔ 3 * n ≤ bs.length := by
  rw [← decide_eq_true_iff (p := 3 * n ≤ bs.length), ← takeWords_isSome, Option.isSome_iff_exists, Prod.exists]

theorem decodeCommand_wrmem_read_iff {b : Byte} (h : nibbleHi b = 0xA#4 ∨ nibbleHi b = 0xB#4) (bs : List Byte) :
    (∃ i t, decodeCommand b bs = .ok (i, t)) ↔
      ∃ n1 n0 : Byte, bs[0]? = some n1 ∧ bs[1]? = some n0 ∧ 4 + 3 * (256 * n1.toNat + n0.toNat) ≤ bs.length := by
  simp only [decodeCommand_wrmem_ok_iff h]
  constructor
  · rintro ⟨i, rest, n1, n0, a1, a0, t, ws, rfl, hws, -⟩
    have hlen := (exists_takeWords_iff _ t).mp ⟨ws, rest, hws⟩
    rw [half_toNat] at hlen
    exact ⟨n1, n0, rfl, rfl, by simp only [List.length_cons]; omega⟩
  · rintro ⟨n1, n0, h1, h0, hlen⟩
    match bs with
    | [] | [_] | [_, _] | [_, _, _] => simp only [List.length_cons, List.length_nil] at hlen; omega
    | b1 :: b2 :: a1 :: a0 :: t =>
      cases h1
      cases h0
      obtain ⟨ws, rest, hws⟩ : ∃ ws rest, takeWords (n1 ++ n0 : Half).toNat t = some (ws, rest) := by
        rw [exists_takeWords_iff, half_toNat]
        simp only [List.length_cons] at hlen
        omega
      exact ⟨_, rest, n1, n0, a1, a0, t, ws, rfl, hws, rfl⟩

/-- The classes of command bytes as quotients: RUN, WRREG, WRMEM and the commands of one byte. -/
theorem commandLength_quotient (b : Byte) :
    ((nibbleHi b = 0x0#4 ∨ nibbleHi b = 0x1#4) ↔ b.toNat / 16 ≤ 1) ∧ (nibbleHi b = 0x9#4 ↔ b.toNat / 16 = 9) ∧
      ((nibbleHi b = 0xA#4 ∨ nibbleHi b = 0xB#4) ↔ (b.toNat / 16 = 10 ∨ b.toNat / 16 = 11)) ∧
      (oneByteCommand (nibbleHi b) = true ↔
        1 < b.toNat / 16 ∧ b.toNat / 16 ≠ 9 ∧ b.toNat / 16 ≠ 10 ∧ b.toNat / 16 ≠ 11) := by
  rw [← nibbleHi_toNat]
  generalize nibbleHi b = h
  revert h; decide

/-- A command byte is read by the bytes after it, as many as its high nibble asks (30_encoding.md R107). -/
theorem decodeCommand_read_iff (b : Byte) (bs : List Byte) :
    (∃ i t, decodeCommand b bs = .ok (i, t)) ↔
      ((b.toNat / 16 ≤ 1 → 1 ≤ bs.length) ∧
       (b.toNat / 16 = 9 → 3 ≤ bs.length) ∧
       (b.toNat / 16 = 10 ∨ b.toNat / 16 = 11 →
         ∃ n1 n0 : Byte, bs[0]? = some n1 ∧ bs[1]? = some n0 ∧
           4 + 3 * (256 * n1.toNat + n0.toNat) ≤ bs.length)) := by
  obtain ⟨hrun, hwrreg, hwrmem, hone⟩ := commandLength_quotient b
  rcases commandLength_cases (nibbleHi b) with hn | hn | hn | hn
  · have hq := hrun.mp hn
    rw [decodeCommand_run_read_iff hn]
    exact ⟨fun h => ⟨fun _ => h, by omega, by omega⟩, fun ⟨h, _, _⟩ => h hq⟩
  · have hq := hwrreg.mp hn
    rw [decodeCommand_wrreg_read_iff hn]
    exact ⟨fun h => ⟨by omega, fun _ => h, by omega⟩, fun ⟨_, h, _⟩ => h hq⟩
  · have hq := hwrmem.mp hn
    rw [decodeCommand_wrmem_read_iff hn]
    exact ⟨fun h => ⟨by omega, by omega, fun _ => h⟩, fun ⟨_, _, h⟩ => h hq⟩
  · have hq := hone.mp hn
    obtain ⟨i, hread, -⟩ := decodeCommand_oneByte hn
    exact iff_of_true ⟨i, bs, hread bs⟩ ⟨by omega, by omega, by omega⟩

/-- At every format but command each byte is a row. -/
theorem decodeBytes_oneByte (c : Params) {f : ByteFormat} (hf : f ≠ .command) (b : Byte) (rest : List Byte) :
    ∃ i, decodeBytes c f (b :: rest) = .ok (i, rest) := by
  cases f with
  | command => exact absurd rfl hf
  | address | selector | read | control | bad => exact ⟨_, rfl⟩

/-! ### The obligations -/

/-- Settles O3, by format: an address or selector row, a command row, or a row that is any byte. -/
theorem decodeOfEncodeIsTheOperation : Obligations.DecodeOfEncodeIsTheOperation := by
  intro c i f rest hok hwf hf
  cases f with
  | address =>
    obtain ⟨b, henc, hdec⟩ := decodeAddress_encode hwf hf
    rw [henc, ← hdec]
    rfl
  | selector =>
    obtain ⟨b, henc, hdec⟩ := decodeSelector_encode hok hwf hf
    rw [henc, ← hdec]
    rfl
  | command => exact decodeCommand_encode rest hwf hf
  | read =>
    cases i with
    | dataReadGroup b => rfl
    | _ => cases hf
  | control =>
    cases i with
    | controlByte b => rfl
    | _ => cases hf
  | bad =>
    cases i with
    | badByte b => rfl
    | _ => cases hf

/-- Settles O4, from what each format reads. -/
theorem encodeOfDecodeIsTheBytes : Obligations.EncodeOfDecodeIsTheBytes := by
  intro c f bs rest i hd
  obtain ⟨hwf, hbytes⟩ := decodeBytes_inverse hd
  exact ⟨hwf, decodeBytes_format hd, hbytes⟩

/-- Settles O5: the one-byte formats, and the commands by the number of bytes they ask for. -/
theorem onlyShortCommandsAreNotRead : Obligations.OnlyShortCommandsAreNotRead :=
  ⟨fun c _ b rest hf => decodeBytes_oneByte c hf b rest, fun _ b rest => decodeCommand_read_iff b rest⟩

/-- Settles O2, by running the decoder on each of the nine words. -/
theorem writtenWordsDecode : Obligations.WrittenWordsDecode :=
  ⟨rfl, rfl, rfl, rfl, rfl, rfl, rfl, rfl, rfl⟩

end Sys2Proof
end

section
/-! SUPPORT. The line calls and the line conditions, one equation per case of the spec, and the statements that are one call (O16 to
O20, O24, O25). -/

namespace Sys2Proof.Machine

open Sys2Proof.Config

/-! ### Acknowledge cells -/

/-- The clock rise in `Ack` (40_bus_protocol.md R155). -/
theorem ackRise_ack {s : State} (h : s.busState = .ack) : ackRise s = { s with busState := .ack2 } := by
  simp only [ackRise, h]

/-- The clock rise in any other bus state (40_bus_protocol.md R156). -/
theorem ackRise_other {s : State} (h : s.busState ≠ .ack) : ackRise s = s := by
  unfold ackRise
  split
  · contradiction
  · rfl

/-! ### Clock calls -/

/-- A clock call with the stored level (40_bus_protocol.md R141). -/
theorem setClock_same (s : State) : execSetClock s.sclIn s = .next s := if_pos rfl

/-- A clock edge from low (40_bus_protocol.md R142). -/
theorem setClock_rise {s : State} (h : s.sclIn = false) : execSetClock true s = clockRise { s with sclIn := true } := by
  simp [execSetClock, h]

/-- A clock edge from high (40_bus_protocol.md R142). -/
theorem setClock_fall {s : State} (h : s.sclIn = true) : execSetClock false s = .next (ackFall { s with sclIn := false }) := by
  simp [execSetClock, h]

/-- A clock rise in `Started` is a bit cell (40_bus_protocol.md R142, R148). -/
theorem setClock_rise_started {s : State} (h : s.sclIn = false) (hb : s.busState = .started) :
    execSetClock true s = bitCell { s with sclIn := true } :=
  (setClock_rise h).trans (clockRise_started hb)

/-- A clock rise outside `Started` is at most the rise of an acknowledge cell. -/
theorem setClock_rise_ackRise {s : State} (h : s.sclIn = false) (hb : s.busState ≠ .started) :
    execSetClock true s = .next (ackRise { s with sclIn := true }) := by
  rw [setClock_rise h]
  unfold clockRise
  split
  · contradiction
  · rfl

/-- A clock fall in `Ack2` makes ready for the next byte (40_bus_protocol.md R157). -/
theorem setClock_fall_ack2 {s : State} (h : s.sclIn = true) (hb : s.busState = .ack2) :
    execSetClock false s = .next { s with sclIn := false, busState := .started, bitIdx := some 7, acc := 0#8 } :=
  (setClock_fall h).trans (congrArg Host.Outcome.next (ackFall_ack2 hb))

/-- Outside `Ack2` driving the clock low only stores the level (40_bus_protocol.md R141, R156). -/
theorem setClock_low {s : State} (hb : s.busState ≠ .ack2) : execSetClock false s = .next { s with sclIn := false } := by
  cases h : s.sclIn with
  | false => rw [← h]; exact setClock_same s
  | true => exact (setClock_fall h).trans (congrArg Host.Outcome.next (ackFall_other hb))

/-! ### Data calls -/

/-- A data call with the stored level (40_bus_protocol.md R141). -/
theorem setData_same (s : State) : execSetData s.sdaIn s = .next s := if_pos rfl

/-- A data fall while the clock is high is a START (40_bus_protocol.md R143, R146). -/
theorem setData_start {s : State} (hc : s.sclIn = true) (hd : s.sdaIn = true) :
    execSetData false s = .next (startCondition { s with sdaIn := false }) := by
  simp [execSetData, hc, hd]

/-- A data rise while the clock is high is a STOP, but right after a START (40_bus_protocol.md R143, R147). -/
theorem setData_high {s : State} (hc : s.sclIn = true) (hd : s.sdaIn = false) :
    execSetData true s = .next (if justStarted s then { s with sdaIn := true } else stopCondition { s with sdaIn := true }) := by
  simp only [execSetData, hc, hd, Bool.true_eq_false, if_false, if_true]
  split <;> rfl

theorem justStarted_iff (s : State) :
    justStarted s = true ↔ s.busState = .started ∧ s.bitIdx = some 7 ∧ s.addrStatus = .unresolved := by
  simp [justStarted, and_assoc]

/-- STOP, with the data line by the parameter (40_bus_protocol.md R147, R160). -/
theorem stopCondition_eq (s : State) : stopCondition s = { s with
    trace := s.trace ++ [.transactionEnded]
    sdaOut := if s.cfg.sdaRelease = .onNakIdle then true else s.sdaOut
    busState := .idle, addrStatus := .unresolved, acc := 0#8, bitIdx := some 7
    subdest := .undefined, pos := 0, cmd := .bad } := by
  rw [← releasedSda_eq]
  rfl

/-! ### The obligations -/

/-- Settles O16: stored levels (40_bus_protocol.md R141), and data edges while the clock is low (R143). -/
theorem lineCallsWithoutABusEvent : Obligations.LineCallsWithoutABusEvent :=
  fun s => ⟨setClock_same s, setData_same s, fun h l => setData_low h l⟩

/-- Settles O17, edge by edge: rises go through `ackRise`, falls through `ackFall`. -/
theorem clockEdgesOutsideBitCells : Obligations.ClockEdgesOutsideBitCells := by
  intro s
  refine ⟨fun hlow hack => ?_, fun hlow hbus => ?_, fun hhigh hack2 => setClock_fall_ack2 hhigh hack2,
    fun _ hbus => setClock_low hbus⟩
  · have hns : s.busState ≠ .started := by rw [hack]; decide
    exact (setClock_rise_ackRise hlow hns).trans (congrArg Host.Outcome.next (ackRise_ack hack))
  · have hns : s.busState ≠ .started := by rcases hbus with h | h | h <;> rw [h] <;> decide
    have hna : s.busState ≠ .ack := by rcases hbus with h | h | h <;> rw [h] <;> decide
    exact (setClock_rise_ackRise hlow hns).trans (congrArg Host.Outcome.next (ackRise_other hna))

/-- Settles O18: the rise (R155), then the fall (R157), by the bus state. -/
theorem ackCellReturnsToStarted : Obligations.AckCellReturnsToStarted := by
  intro s
  refine ⟨fun h => congrArg Host.Outcome.next ?_, fun ⟨hack, hack2⟩ => congrArg Host.Outcome.next ?_⟩
  · rcases h with hack | hack2
    · rw [ackRise_ack hack, ackFall_ack2 rfl]
    · rw [ackRise_other (by rw [hack2]; decide), ackFall_ack2 hack2]
  · rw [ackRise_other hack, ackFall_other hack2]

/-- Settles O19: the row, and the data fall (40_bus_protocol.md R143, R146). -/
theorem startFromAnyState : Obligations.StartFromAnyState :=
  ⟨fun _ => rfl, fun _ hc hd => setData_start hc hd⟩

/-- Settles O20: the row, and the data rise by `justStarted` (40_bus_protocol.md R147). -/
theorem stopEndsTheSession : Obligations.StopEndsTheSession := by
  refine ⟨fun s => congrArg Host.Outcome.next (stopCondition_eq s), fun s hc hd hjust => ?_, fun s hc hd hjust => ?_⟩
  · refine (setData_high hc hd).trans ?_
    rw [if_neg (mt (justStarted_iff s).mp hjust), stopCondition_eq]
  · refine (setData_high hc hd).trans ?_
    rw [if_pos ((justStarted_iff s).mpr hjust)]

/-- Settles O24: the wired AND; the device never drives the clock low (40_bus_protocol.md R144). -/
theorem readClockReturnsTheWiredAnd : Obligations.ReadClockReturnsTheWiredAnd := by
  refine fun s => ⟨rfl, fun hout => ?_⟩
  change Host.Outcome.next { s with ret := .level (s.sclIn && s.sclOut) } = _
  rw [hout, Bool.and_true]

/-- Settles O25: the read is the returned value (40_bus_protocol.md R145). -/
theorem readDataReturnsTheWiredAnd : Obligations.ReadDataReturnsTheWiredAnd := fun _ => rfl

end Sys2Proof.Machine
end

section
/-! SUPPORT. A byte on the wires: bit cells one at a time (O21, O22), the line calls of a whole byte at a byte boundary (O13) and in
`Nak` (O15). -/

namespace Sys2Proof.Machine

open Sys2Proof.Config

/-! ### One bit cell -/

/-- The cell of bit `i`: sample, drive, count (40_bus_protocol.md R150 to R152). -/
def sampleBit (i : Fin 8) (s : State) : State :=
  { s with acc := setBit s.acc i s.sdaIn, sdaOut := driveLevel s i.val, bitIdx := prevBitIdx i }

/-- A bit cell before the eighth (40_bus_protocol.md R152). -/
theorem bitCell_sample {s : State} {i : Fin 8} (h : s.bitIdx = some i) (hi : 0 < i.val) : bitCell s = .next (sampleBit i s) := by
  rw [bitCell_some h, if_neg (by omega)]
  rfl

/-- The eighth bit cell hands the byte over (40_bus_protocol.md R152, R164). -/
theorem bitCell_last {s : State} (h : s.bitIdx = some 0) : bitCell s = .next (byteComplete (sampleBit 0 s)) := by
  rw [bitCell_some h]
  rfl

theorem prevBitIdx_pos {i : Fin 8} (hi : 0 < i.val) : prevBitIdx i = some ⟨i.val - 1, by omega⟩ := if_neg (by omega)

/-- The bits not below `n` are already those of `b`: what `ACC` holds before the cell of bit `n - 1`. -/
def SampledFrom (n : Nat) (b acc : Byte) : Prop := ∀ j : Nat, n ≤ j → j < 8 → acc.getLsbD j = b.getLsbD j

/-- Sampling bit `n` of a byte (40_bus_protocol.md R150). -/
theorem SampledFrom.setBit {n : Nat} {b acc : Byte} (h : SampledFrom (n + 1) b acc) (hn : n < 8) :
    SampledFrom n b (setBit acc ⟨n, hn⟩ (b.getLsbD n)) := by
  intro j hnj hj
  rw [setBit_bit _ _ _ _ hj]
  by_cases hjn : j = n
  · rw [if_pos hjn, hjn]
  · rw [if_neg hjn]
    exact h j (by omega) hj

/-- All eight bits sampled. -/
theorem SampledFrom.eq {b acc : Byte} (h : SampledFrom 0 b acc) : acc = b :=
  BitVec.eq_of_getLsbD_eq fun j hj => h j (Nat.zero_le j) hj

/-! ### Runs -/

/-- A run of line calls in two parts. -/
theorem runCalls_append_next {xs ys : List Call} {s t : State} (h : runCalls xs s = .next t) :
    runCalls (xs ++ ys) s = runCalls ys t := by
  unfold runCalls at h ⊢
  rw [List.map_append, runInstrs_append, h]

theorem runCalls_setClock {l : Bool} {ks : List Call} {s t : State} (h : execSetClock l s = .next t) :
    runCalls (.setClock l :: ks) s = runCalls ks t := runCalls_cons_next (k := .setClock l) h

theorem runCalls_setData_low {ks : List Call} {s : State} (h : s.sclIn = false) (v : Bool) :
    runCalls (.setData v :: ks) s = runCalls ks { s with sdaIn := v } := runCalls_cons_next (k := .setData v) (setData_low h v)

/-- A run of one clock call. -/
theorem runCalls_setClock_singleton (l : Bool) (s : State) : runCalls [.setClock l] s = execSetClock l s := by
  simp only [runCalls, List.map_cons, List.map_nil, runInstrs, Call.toInstr, exec]
  cases execSetClock l s <;> rfl

theorem runWire_cons_next {b : Byte} {bs : List Byte} {s t : State} (h : runCalls (wireCalls s b) s = .next t) :
    runWire (b :: bs) s = runWire bs t := by
  simp only [runWire, h]

/-- The line calls of the lowest `n` bits of a byte, highest first (30_encoding.md R102, R130). -/
def bitsBelow (b : Byte) : Nat → List Call
  | 0 => []
  | n + 1 => bitCalls (b.getLsbD n) ++ bitsBelow b n

theorem wireCalls_eq (s : State) (b : Byte) : wireCalls s b = leadInCalls s ++ bitsBelow b 8 := by
  simp only [wireCalls, bitsBelow, List.append_assoc, List.append_nil]

/-! ### The line calls of a bit cell -/

/-- The pulse of a bit cell in `Started`, up to the clock fall. -/
theorem runCalls_bitCalls {s t : State} (v : Bool) (hlow : s.sclIn = false) (hbus : s.busState = .started)
    (hcell : bitCell { s with sdaIn := v, sclIn := true } = .next t) :
    runCalls (bitCalls v) s = execSetClock false t := by
  have hrise : execSetClock true { s with sdaIn := v } = .next t :=
    (setClock_rise_started (s := { s with sdaIn := v }) hlow hbus).trans hcell
  unfold bitCalls
  rw [runCalls_setData_low hlow, runCalls_setClock hrise, runCalls_setClock_singleton]

/-- The pulse of a bit cell before the eighth. -/
theorem runCalls_bitCalls_sample {s : State} {i : Fin 8} (v : Bool) (hlow : s.sclIn = false) (hbus : s.busState = .started)
    (hidx : s.bitIdx = some i) (hi : 0 < i.val) :
    runCalls (bitCalls v) s = .next (sampleBit i { s with sdaIn := v, sclIn := false }) := by
  have hbus2 : s.busState ≠ .ack2 := by rw [hbus]; decide
  have hcell := bitCell_sample (s := { s with sdaIn := v, sclIn := true }) hidx hi
  exact (runCalls_bitCalls v hlow hbus hcell).trans (setClock_low hbus2)

/-- After a completed byte the clock fall only stores the level: the bus is in `Ack` or `Nak`. -/
theorem byteComplete_clockFall {s : State} (h : s.addrStatus ≠ .invalid) :
    execSetClock false (byteComplete s) = .next (byteComplete { s with sclIn := false }) := by
  have hbus : (byteComplete s).busState ≠ .ack2 := by
    rcases (byteComplete_bus h).bus with hb | hb <;> rw [hb] <;> decide
  exact (setClock_low hbus).trans (congrArg Host.Outcome.next (byteComplete_sclIn false s).symm)

/-- The pulse of the eighth bit cell. -/
theorem runCalls_bitCalls_last {s : State} (v : Bool) (hlow : s.sclIn = false) (hbus : s.busState = .started)
    (hidx : s.bitIdx = some 0) (ha : s.addrStatus ≠ .invalid) :
    runCalls (bitCalls v) s = .next (byteComplete (sampleBit 0 { s with sdaIn := v, sclIn := false })) := by
  have hcell := bitCell_last (s := { s with sdaIn := v, sclIn := true }) hidx
  exact (runCalls_bitCalls v hlow hbus hcell).trans (byteComplete_clockFall ha)

/-! ### The line calls of a byte -/

/-- The state before the cell of bit `n` of byte `b`: the clock is low, and the bits above `n` are sampled. -/
structure BeforeBit (b : Byte) (n : Nat) (s : State) : Prop where
  clock : s.sclIn = false
  bus : s.busState = .started
  lt : n < 8
  index : s.bitIdx = some ⟨n, lt⟩
  sampled : SampledFrom (n + 1) b s.acc
  address : s.addrStatus ≠ .invalid

/-- The cell of a bit leads to the next lower bit. -/
theorem BeforeBit.next {b : Byte} {n : Nat} {s : State} (h : BeforeBit b (n + 1) s) :
    BeforeBit b n (sampleBit ⟨n + 1, h.lt⟩ { s with sdaIn := b.getLsbD (n + 1), sclIn := false }) :=
  ⟨rfl, h.bus, Nat.lt_of_succ_lt h.lt, prevBitIdx_pos (i := ⟨n + 1, h.lt⟩) (Nat.succ_pos n), h.sampled.setBit h.lt, h.address⟩

/-- The last cell leaves the byte in `ACC`. -/
theorem BeforeBit.last {b : Byte} {s : State} (h : BeforeBit b 0 s) :
    sampleBit 0 { s with sdaIn := b.getLsbD 0, sclIn := false } = clockIn b s := by
  have hacc : setBit s.acc 0 (b.getLsbD 0) = b := (h.sampled.setBit h.lt).eq
  simp only [sampleBit, clockIn, hacc]
  rfl

/-- The bits of a byte from bit `n` down, by induction on `n`: each cell is overwritten by the net effect of the eight
(40_bus_protocol.md R148, R163). -/
theorem BeforeBit.runCalls_bitsBelow {b : Byte} {n : Nat} {s : State} (h : BeforeBit b n s) :
    runCalls (bitsBelow b (n + 1)) s = .next (byteComplete (clockIn b s)) := by
  induction n generalizing s with
  | zero =>
    rw [← h.last]
    exact (runCalls_append_next (runCalls_bitCalls_last _ h.clock h.bus h.index h.address)).trans rfl
  | succ n ih =>
    have hcell := runCalls_bitCalls_sample (b.getLsbD (n + 1)) h.clock h.bus h.index (Nat.succ_pos n)
    exact (runCalls_append_next hcell).trans (ih h.next)

/-! ### The lead-in to a byte boundary -/

/-- The three places of a byte boundary (40_bus_protocol.md R148, R155, R157). -/
theorem atByteBoundary_cases {s : State} (h : atByteBoundary s = true) :
    (s.busState = .started ∧ s.bitIdx = some 7) ∨ s.busState = .ack ∨ (s.busState = .ack2 ∧ s.sclIn = true) := by
  unfold atByteBoundary at h
  split at h
  · rename_i hb
    exact .inl ⟨hb, beq_iff_eq.mp h⟩
  · rename_i hb
    exact .inr (.inl hb)
  · rename_i hb
    exact .inr (.inr ⟨hb, h⟩)
  · cases h
  · cases h

/-- Bringing the clock low, outside `Ack2`. -/
theorem runCalls_lowerClock {s : State} (hb : s.busState ≠ .ack2) :
    runCalls (if s.sclIn then [.setClock false] else []) s = .next { s with sclIn := false } := by
  cases hc : s.sclIn with
  | false => exact congrArg Host.Outcome.next (by rw [← hc])
  | true => exact runCalls_setClock (setClock_low hb)

/-- Outside an acknowledge cell the lead-in brings the clock low. -/
theorem runCalls_leadIn_noAck {s : State} (hb : s.busState ≠ .ack) (hb2 : s.busState ≠ .ack2) :
    runCalls (leadInCalls s) s = .next { s with sclIn := false } := by
  unfold leadInCalls
  rw [if_neg hb, List.append_nil]
  exact runCalls_lowerClock hb2

/-- At a byte boundary the lead-in ends before the first bit of a byte, with the clock low. -/
theorem runCalls_leadIn {s : State} (h : atByteBoundary s = true) :
    ∃ acc, runCalls (leadInCalls s) s = .next { s with sclIn := false, busState := .started, bitIdx := some 7, acc := acc } := by
  rcases atByteBoundary_cases h with ⟨hb, hi⟩ | hb | ⟨hb, hc⟩
  · refine ⟨s.acc, ?_⟩
    rw [runCalls_leadIn_noAck (by rw [hb]; decide) (by rw [hb]; decide), ← hb, ← hi]
  · have hlow := runCalls_lowerClock (s := s) (by rw [hb]; decide)
    have hrise : execSetClock true { s with sclIn := false } = .next { s with sclIn := true, busState := .ack2 } :=
      (setClock_rise_ackRise rfl (by change s.busState ≠ _; rw [hb]; decide)).trans (congrArg Host.Outcome.next (ackRise_ack hb))
    refine ⟨0#8, ?_⟩
    unfold leadInCalls
    rw [if_pos hb, runCalls_append_next hlow, runCalls_setClock hrise]
    exact runCalls_setClock (setClock_fall_ack2 rfl rfl)
  · refine ⟨0#8, ?_⟩
    unfold leadInCalls
    rw [if_pos hc, if_neg (by rw [hb]; decide)]
    exact runCalls_setClock (setClock_fall_ack2 hc hb)

/-- Settles O13: the lead-in, then the eight bit cells; what the lead-in changed is overwritten by them or by the completion. -/
theorem clockedByteIsDelivered : Obligations.ClockedByteIsDelivered := by
  intro s b hboundary ha
  obtain ⟨acc, hlead⟩ := runCalls_leadIn hboundary
  have hbefore : BeforeBit b 7 { s with sclIn := false, busState := .started, bitIdx := some 7, acc := acc } :=
    ⟨rfl, rfl, by decide, rfl, fun j h7 h8 => by omega, ha⟩
  rw [wireCalls_eq, runCalls_append_next hlead, hbefore.runCalls_bitsBelow]
  exact congrArg Host.Outcome.next (byteComplete_busState (s := clockIn b s) ha .started)

/-! ### Bytes in `Nak` -/

/-- The pulse of a bit in `Nak` (40_bus_protocol.md R159). -/
theorem runCalls_bitCalls_nak {s : State} (hb : s.busState = .nak) (hlow : s.sclIn = false) (v : Bool) :
    runCalls (bitCalls v) s = .next { s with sdaIn := v, sclIn := false } := by
  have hrise := nak_clock (s := { s with sdaIn := v }) hb true
  unfold bitCalls
  rw [runCalls_setData_low hlow, runCalls_setClock hrise]
  exact runCalls_setClock (nak_clock (s := { s with sdaIn := v, sclIn := true }) hb false)

/-- The bits of a byte in `Nak`: the last one stays on the data line. -/
theorem runCalls_bitsBelow_nak {s : State} (hb : s.busState = .nak) (hlow : s.sclIn = false) (b : Byte) (n : Nat) :
    runCalls (bitsBelow b (n + 1)) s = .next (clockPast b s) := by
  induction n generalizing s with
  | zero => exact (runCalls_append_next (runCalls_bitCalls_nak hb hlow _)).trans rfl
  | succ n ih => exact (runCalls_append_next (runCalls_bitCalls_nak hb hlow _)).trans (ih hb rfl)

/-- A byte clocked in `Nak` moves the line levels only (40_bus_protocol.md R159). -/
theorem runCalls_wireCalls_nak {s : State} (hb : s.busState = .nak) (b : Byte) :
    runCalls (wireCalls s b) s = .next (clockPast b s) := by
  have hlead := runCalls_leadIn_noAck (s := s) (by rw [hb]; decide) (by rw [hb]; decide)
  rw [wireCalls_eq, runCalls_append_next hlead]
  exact runCalls_bitsBelow_nak (s := { s with sclIn := false }) hb rfl b 7

/-- Settles O15, by induction on the bytes before the last. -/
theorem nakConsumesNoByte : Obligations.NakConsumesNoByte := by
  intro s bs b hb
  induction bs generalizing s with
  | nil => exact runWire_cons_next (runCalls_wireCalls_nak hb b)
  | cons b' bs ih => exact (runWire_cons_next (runCalls_wireCalls_nak hb b')).trans (ih (clockPast b' s) hb)

/-! ### Single bit cells -/

/-- Settles O21: the sampled byte, bit by bit, and the cell as the row and as a clock rise. -/
theorem bitCellSamplesDrivesAndCounts : Obligations.BitCellSamplesDrivesAndCounts := by
  intro s i hidx hi
  refine ⟨setBit s.acc i s.sdaIn, fun j hj => setBit_bit _ _ _ j hj, ?_, fun hbus hlow => ?_⟩
  · rw [← prevBitIdx_pos hi]
    exact bitCell_sample hidx hi
  · rw [← prevBitIdx_pos hi]
    exact (setClock_rise_started hlow hbus).trans (bitCell_sample hidx hi)

/-- The eighth bit cell of a control byte (40_bus_protocol.md R154, 41_command_interpreter.md R183). -/
theorem bitCell_control {s : State} (hidx : s.bitIdx = some 0) (ha : s.addrStatus = .valid) (hd : s.subdest = .control) :
    bitCell s = .next { s with
      acc := setBit s.acc 0 s.sdaIn, sdaOut := false, bitIdx := none, busState := .ack
      trace := s.trace ++ [.controlByte (setBit s.acc 0 s.sdaIn)] } := by
  have hdrive : driveLevel s 0 = false := driveLevel_low (by rw [hd]; decide) 0
  rw [bitCell_last hidx, byteComplete_valid (s := sampleBit 0 s) ha, interpret_control (s := acknowledge (sampleBit 0 s)) hd,
    ← hdrive]
  rfl

/-- Settles O22: the byte handed over, bit by bit, and the cell as the row and as a clock rise. -/
theorem eighthBitCellHandsTheByteOver : Obligations.EighthBitCellHandsTheByteOver := by
  intro s hidx ha hd
  exact ⟨setBit s.acc 0 s.sdaIn, fun j hj => setBit_bit _ _ _ j hj, bitCell_control hidx ha hd,
    fun hbus hlow => (setClock_rise_started hlow hbus).trans (bitCell_control (s := { s with sclIn := true }) hidx ha hd)⟩

end Sys2Proof.Machine
end

section
/-! SUPPORT. The rows of the wire formats: what `exec` does with each format's bytes, the agreement with their line calls (O14), and
the address rows (O27, O28). -/

namespace Sys2Proof.Machine

open Sys2Proof.Config

/-! ### The rows by format -/

/-- An address row is its one byte, from the first bit cell to `AddressByte` (40_bus_protocol.md R153). -/
theorem exec_address {i : Instr} (hf : i.format = some .address) (s : State) :
    ∃ b, encode s.cfg i = [b] ∧ exec i s = .next (addressByte b (clockIn b s)) := by
  cases i with
  | addrWrite a | addrRead a => exact ⟨_, rfl, rfl⟩
  | addrMismatch b => exact ⟨b, rfl, rfl⟩
  | _ => cases hf

/-- A selector row is its one byte, from the first bit cell to `Select` (41_command_interpreter.md R181). -/
theorem exec_selector {i : Instr} (hf : i.format = some .selector) (s : State) :
    ∃ b, encode s.cfg i = [b] ∧ exec i s = .next (select b (acknowledge (clockIn b s))) := by
  cases i with
  | selDataWrite | selDataRead | selControl => exact ⟨_, rfl, rfl⟩
  | selBad b => exact ⟨b, rfl, rfl⟩
  | _ => cases hf

/-- A command row is its bytes, one after the other (41_command_interpreter.md R185). -/
theorem exec_command {i : Instr} (hf : i.format = some .command) (s : State) :
    exec i s = .next (commandWireBytes (encode s.cfg i) s) := by
  cases i with
  | run | rdctl | wrreg | wrmem | rdreg | rdmem | bad2 | bad47 | bad8 | badC => rfl
  | _ => cases hf

/-! ### One byte of a session -/

/-- A single byte, clocked in at a byte boundary. -/
theorem runWire_singleton {s : State} (hboundary : atByteBoundary s = true) (ha : s.addrStatus ≠ .invalid) (b : Byte) :
    runWire [b] s = .next (byteComplete (clockIn b s)) :=
  runWire_cons_next (clockedByteIsDelivered s b hboundary ha)

/-- The first byte of a session goes to `AddressByte` (40_bus_protocol.md R152). -/
theorem runWire_address {s : State} (hboundary : atByteBoundary s = true) (ha : s.addrStatus = .unresolved) (b : Byte) :
    runWire [b] s = .next (addressByte b (clockIn b s)) := by
  rw [runWire_singleton hboundary (by rw [ha]; decide), byteComplete_unresolved (s := clockIn b s) ha]
  rfl

/-- A completed data byte goes to the interpreter (40_bus_protocol.md R154). -/
theorem byteComplete_clockIn_valid {s : State} (ha : s.addrStatus = .valid) (b : Byte) :
    byteComplete (clockIn b s) = interpret b (acknowledge (clockIn b s)) :=
  byteComplete_valid (s := clockIn b s) ha

/-- A later byte of a session goes to the interpreter. -/
theorem runWire_data {s : State} (hboundary : atByteBoundary s = true) (ha : s.addrStatus = .valid) (b : Byte) :
    runWire [b] s = .next (interpret b (acknowledge (clockIn b s))) := by
  rw [runWire_singleton hboundary (by rw [ha]; decide), byteComplete_clockIn_valid ha]

/-! ### The bytes of a command -/

/-- Where a command's bytes leave a session: at the next byte of `data-write`, or in `Nak` after an overrun. -/
def InDataWrite (s : State) : Prop :=
  s.busState = .nak ∨ (atByteBoundary s = true ∧ s.addrStatus = .valid ∧ s.subdest = .dataWrite)

theorem atByteBoundary_of_ack {s : State} (h : s.busState = .ack) : atByteBoundary s = true := by
  simp only [atByteBoundary, h]

theorem atByteBoundary_ne_nak {s : State} (h : atByteBoundary s = true) : s.busState ≠ .nak := by
  intro hb
  simp [atByteBoundary, hb] at h

/-- At a byte boundary of `data-write` a byte of a command is its completion (40_bus_protocol.md R154). -/
theorem commandWireByte_eq_byteComplete {s : State} (hboundary : atByteBoundary s = true) (ha : s.addrStatus = .valid)
    (hd : s.subdest = .dataWrite) (b : Byte) : commandWireByte s b = byteComplete (clockIn b s) := by
  rw [byteComplete_clockIn_valid ha, interpret_dataWrite (s := acknowledge (clockIn b s)) hd]
  exact if_neg (atByteBoundary_ne_nak hboundary)

/-- In `Nak` a byte of a command is not consumed (40_bus_protocol.md R159). -/
theorem commandWireByte_nak {s : State} (hb : s.busState = .nak) (b : Byte) : commandWireByte s b = clockPast b s := if_pos hb

/-- The line calls of one byte of a command (40_bus_protocol.md R148, R154, R159). -/
theorem InDataWrite.runCalls_wireCalls {s : State} (h : InDataWrite s) (b : Byte) :
    runCalls (wireCalls s b) s = .next (commandWireByte s b) := by
  rcases h with hb | ⟨hboundary, ha, hd⟩
  · rw [commandWireByte_nak hb]
    exact runCalls_wireCalls_nak hb b
  · rw [commandWireByte_eq_byteComplete hboundary ha hd]
    exact clockedByteIsDelivered s b hboundary (by rw [ha]; decide)

/-- A byte of a command leaves the session in `data-write`, acknowledged, or in `Nak`. -/
theorem InDataWrite.step {s : State} (h : InDataWrite s) (b : Byte) : InDataWrite (commandWireByte s b) := by
  rcases h with hb | ⟨hboundary, ha, hd⟩
  · rw [commandWireByte_nak hb]
    exact .inl hb
  · have hsub : (commandWireByte s b).subdest = .dataWrite := by
      unfold commandWireByte
      rw [if_neg (atByteBoundary_ne_nak hboundary)]
      exact dataWrite_subdest b hd
    have hsettled := byteComplete_bus (s := clockIn b s) (by rw [clockIn_addrStatus, ha]; decide)
    rw [← commandWireByte_eq_byteComplete hboundary ha hd] at hsettled
    rcases hsettled.bus with hack | hnak
    · exact .inr ⟨atByteBoundary_of_ack hack, hsettled.ack hack, hsub⟩
    · exact .inl hnak

/-- The line calls of a command's bytes, by induction on them. -/
theorem InDataWrite.runWire_eq {s : State} (h : InDataWrite s) (bs : List Byte) : runWire bs s = .next (commandWireBytes bs s) := by
  induction bs generalizing s with
  | nil => rfl
  | cons b bs ih => exact (runWire_cons_next (h.runCalls_wireCalls b)).trans (ih (h.step b))

/-- Settles O14, by the format at which the session stands. -/
theorem clockedEncodingRunsTheOperation : Obligations.ClockedEncodingRunsTheOperation := by
  intro s i f _ hf hformat
  obtain ⟨hboundary, hplace⟩ := byteFormat_cases hformat
  cases f with
  | address =>
    obtain ⟨b, henc, hexec⟩ := exec_address hf s
    rw [henc, hexec, runWire_address hboundary hplace]
  | selector =>
    obtain ⟨ha, hd⟩ := hplace
    obtain ⟨b, henc, hexec⟩ := exec_selector hf s
    rw [henc, hexec, runWire_data hboundary ha, interpret_undefined (s := acknowledge (clockIn b s)) hd]
  | command =>
    obtain ⟨ha, hd, -⟩ := hplace
    rw [exec_command hf, InDataWrite.runWire_eq (.inr ⟨hboundary, ha, hd⟩)]
  | read =>
    obtain ⟨ha, hd⟩ := hplace
    cases i with
    | dataReadGroup b =>
      have hread := interpret_dataRead (s := acknowledge (clockIn b s)) hd b
      exact (runWire_data hboundary ha b).trans (congrArg Host.Outcome.next hread)
    | _ => cases hf
  | control =>
    obtain ⟨ha, hd⟩ := hplace
    cases i with
    | controlByte b =>
      have hcontrol := interpret_control (s := acknowledge (clockIn b s)) hd b
      exact (runWire_data hboundary ha b).trans (congrArg Host.Outcome.next hcontrol)
    | _ => cases hf
  | bad =>
    obtain ⟨ha, hd⟩ := hplace
    cases i with
    | badByte b =>
      have hbad := interpret_bad (s := acknowledge (clockIn b s)) hd b
      exact (runWire_data hboundary ha b).trans (congrArg Host.Outcome.next hbad)
    | _ => cases hf

/-! ### Address rows -/

/-- What the eighth cell of a byte drives (40_bus_protocol.md R151). -/
theorem driveLevel_zero (s : State) : driveLevel s 0 = if s.subdest = .dataRead then s.payload.getLsbD (8 * s.pos) else false := by
  unfold driveLevel
  rw [Nat.zero_add]

/-- The device's own address with either direction bit (40_bus_protocol.md R153, matching branch). -/
theorem addressByte_own (d : Bool) (s : State) : addressByte (s.cfg.devAddr ++ BitVec.ofBool d) s = { s with
    busState := .ack, addrStatus := .valid, subdest := if d then .dataRead else .undefined, pos := 0, acc := 0#8 } := by
  have hread : s.cfg.devAddr ++ BitVec.ofBool d = s.cfg.readAddrByte ↔ d = true := by
    unfold Params.readAddrByte
    generalize s.cfg.devAddr = a
    revert a d; decide
  unfold addressByte
  rw [if_pos (addr7_append _ _), if_congr hread rfl rfl]
  rfl

/-- Another device's address (40_bus_protocol.md R153, mismatch branch, R160). -/
theorem addressByte_other {b : Byte} {s : State} (h : addr7 b ≠ s.cfg.devAddr) : addressByte b s = { s with
    busState := .nak, addrStatus := .invalid
    sdaOut := if s.cfg.sdaRelease = .onNakIdle then true else s.sdaOut } := by
  unfold addressByte
  rw [if_neg h, ← releasedSda_eq]
  rfl

/-- An address byte for the device, from its first bit cell (40_bus_protocol.md R151, R153). -/
theorem addressRow_own (d : Bool) (s : State) :
    addressByte (s.cfg.devAddr ++ BitVec.ofBool d) (clockIn (s.cfg.devAddr ++ BitVec.ofBool d) s) = { s with
      sclIn := false, sdaIn := d
      sdaOut := if s.subdest = .dataRead then s.payload.getLsbD (8 * s.pos) else false
      acc := 0#8, bitIdx := none, busState := .ack, addrStatus := .valid
      subdest := if d then .dataRead else .undefined, pos := 0 } := by
  refine (addressByte_own d (clockIn _ s)).trans ?_
  rw [← driveLevel_zero]
  simp only [clockIn, direction_append]

/-- Settles O27: the two direction bits. -/
theorem matchingAddressOpensTheSession : Obligations.MatchingAddressOpensTheSession :=
  fun s => ⟨congrArg Host.Outcome.next (addressRow_own false s), congrArg Host.Outcome.next (addressRow_own true s)⟩

/-- Settles O28: the upper seven bits are the byte's half (30_encoding.md R104). -/
theorem mismatchingAddressNaks : Obligations.MismatchingAddressNaks := by
  intro s b hother
  have haddr : addr7 b ≠ s.cfg.devAddr := fun h => hother (by rw [← addr7_toNat, h])
  rw [← driveLevel_zero]
  exact congrArg Host.Outcome.next (addressByte_other (s := clockIn b s) haddr)

end Sys2Proof.Machine
end

section
/-! SUPPORT. The command interpreter byte by byte: what each command does with the byte at its position, and one byte of a
`data-write` session on that; then the selector, read, control and bad rows and the commands of a fixed length (O29 to O35, O37 to
O42). -/

namespace Sys2Proof.Machine

open Sys2Proof.Config

/-! ### A byte taken in -/

/-- The state in which the interpreter finds byte `b` where the cells drive low: the byte is clocked in and acknowledged
(40_bus_protocol.md R151, R154). -/
def received (b : Byte) (s : State) : State :=
  { s with sclIn := false, sdaIn := b.getLsbD 0, sdaOut := false, acc := b, bitIdx := none, busState := .ack }

/-- The same with the command that the byte selects (41_command_interpreter.md R186). -/
def commandReceived (c : Command) (b : Byte) (s : State) : State := { received b s with cmd := c }

theorem acknowledge_clockIn {s : State} (h : s.subdest ≠ .dataRead) (b : Byte) : acknowledge (clockIn b s) = received b s := by
  unfold acknowledge clockIn received
  rw [driveLevel_low h]

/-- The lowest bit of a concatenation is the lower part's, the level the master leaves on the data line. -/
theorem append_bit0 {n m : Nat} (hm : 0 < m) (h : BitVec n) (l : BitVec m) : (h ++ l).getLsbD 0 = l.getLsbD 0 := by
  rw [BitVec.getLsbD_append, if_pos hm]

theorem lowByte_bit0 {n : Nat} (v : BitVec n) : (v.extractLsb' 0 8).getLsbD 0 = v.getLsbD 0 := by simp

/-! ### Selection and read groups -/

theorem select_dataWrite (s : State) : select s.cfg.selDataWrite s = { s with subdest := .dataWrite, pos := 0 } := if_pos rfl

theorem select_dataRead {s : State} (hok : s.cfg.ok = true) :
    select s.cfg.selDataRead s = { s with subdest := .dataRead, payload := transpose s.frameCounter, pos := 0 } := by
  obtain ⟨hwr, -, -⟩ := selectors_distinct hok
  unfold select
  rw [if_neg hwr.symm, if_pos rfl]

theorem select_control {s : State} (hok : s.cfg.ok = true) :
    select s.cfg.selControl s = { s with subdest := .control, pos := 0 } := by
  obtain ⟨-, hwc, hrc⟩ := selectors_distinct hok
  unfold select
  rw [if_neg hwc.symm, if_neg hrc.symm, if_pos rfl]

theorem select_bad {s : State} {b : Byte} (hw : b ≠ s.cfg.selDataWrite) (hr : b ≠ s.cfg.selDataRead)
    (hc : b ≠ s.cfg.selControl) : select b s = { s with subdest := .bad, pos := 0 } := by
  unfold select
  rw [if_neg hw, if_neg hr, if_neg hc]

/-- The first two groups of a read session are counted (41_command_interpreter.md R184). -/
theorem dataRead_counted {s : State} (h : s.pos < 2) : dataRead s = { s with pos := s.pos + 1 } := if_neg (by omega)

/-- The third group of a read session is an overrun (41_command_interpreter.md R184). -/
theorem dataRead_overrun {s : State} (h : 2 ≤ s.pos) : dataRead s = enterNak s := if_pos h

/-! ### The command bytes by command and position -/

theorem commandByte_run_zero {s : State} (hc : s.cmd = .runProgram) (hp : s.pos = 0) (b : Byte) :
    commandByte b s = some { s with adr := runAddrHigh b } := by
  simp only [commandByte, hc, runByte, hp]

theorem commandByte_run_one {s : State} (hc : s.cmd = .runProgram) (hp : s.pos = 1) (b : Byte) :
    commandByte b s = some (runProgram (withHalfLow s.adr b) { s with adr := withHalfLow s.adr b }) := by
  simp only [commandByte, hc, runByte, hp]

theorem commandByte_readControl_zero {s : State} (hc : s.cmd = .readControl) (hp : s.pos = 0) (b : Byte) :
    commandByte b s = some (emit .readControl s) := by
  simp only [commandByte, hc, readControlByte, hp]

theorem commandByte_writeRegister_zero {s : State} (hc : s.cmd = .writeRegister) (hp : s.pos = 0) (b : Byte) :
    commandByte b s = some { s with adr := regAddrHigh b } := by
  simp only [commandByte, hc, writeRegisterByte, hp]

theorem commandByte_writeRegister_one {s : State} (hc : s.cmd = .writeRegister) (hp : s.pos = 1) (b : Byte) :
    commandByte b s = some { s with adr := withRegAddrLow s.adr b } := by
  simp only [commandByte, hc, writeRegisterByte, hp]

theorem commandByte_writeRegister_two {s : State} (hc : s.cmd = .writeRegister) (hp : s.pos = 2) (b : Byte) :
    commandByte b s = some { s with val := valHigh b } := by
  simp only [commandByte, hc, writeRegisterByte, hp]

theorem commandByte_writeRegister_three {s : State} (hc : s.cmd = .writeRegister) (hp : s.pos = 3) (b : Byte) :
    commandByte b s =
      some (regWrite (regAddr s.adr) (regValue (withValLow s.val b)) { s with val := withValLow s.val b }) := by
  simp only [commandByte, hc, writeRegisterByte, hp]

theorem commandByte_readRegister_zero {s : State} (hc : s.cmd = .readRegister) (hp : s.pos = 0) (b : Byte) :
    commandByte b s = some (emit .readRegister s) := by
  simp only [commandByte, hc, readRegisterByte, hp]

theorem commandByte_readMemory_zero {s : State} (hc : s.cmd = .readMemory) (hp : s.pos = 0) (b : Byte) :
    commandByte b s = some (emit (.readMemory (b.getLsbD 4)) { s with bank := b.getLsbD 4 }) := by
  simp only [commandByte, hc, readMemoryByte, hp]

theorem commandByte_bad {s : State} (hc : s.cmd = .bad) (b : Byte) : commandByte b s = some s := by
  simp only [commandByte, hc]

theorem commandByte_writeMemory_zero {s : State} (hc : s.cmd = .writeMemory) (hp : s.pos = 0) (b : Byte) :
    commandByte b s = some { s with bank := b.getLsbD 4 } := by
  simp only [commandByte, hc, writeMemoryByte, hp]

theorem commandByte_writeMemory_one {s : State} (hc : s.cmd = .writeMemory) (hp : s.pos = 1) (b : Byte) :
    commandByte b s = some { s with count := halfHigh b } := by
  simp only [commandByte, hc, writeMemoryByte, hp]

theorem commandByte_writeMemory_two {s : State} (hc : s.cmd = .writeMemory) (hp : s.pos = 2) (b : Byte) :
    commandByte b s = some { s with count := withHalfLow s.count b } := by
  simp only [commandByte, hc, writeMemoryByte, hp]

theorem commandByte_writeMemory_three {s : State} (hc : s.cmd = .writeMemory) (hp : s.pos = 3) (b : Byte) :
    commandByte b s = some { s with adr := halfHigh b } := by
  simp only [commandByte, hc, writeMemoryByte, hp]

theorem commandByte_writeMemory_four {s : State} (hc : s.cmd = .writeMemory) (hp : s.pos = 4) (b : Byte) :
    commandByte b s = some { s with adr := withHalfLow s.adr b } := by
  simp only [commandByte, hc, writeMemoryByte, hp]

/-- A word byte of write-memory, by its place after the header (41_command_interpreter.md R192). -/
theorem commandByte_writeMemory_word {s : State} {k : Nat} (hc : s.cmd = .writeMemory) (hp : s.pos = k + 5) (b : Byte) :
    commandByte b s = memoryWordByte k b s := by
  simp only [commandByte, hc, writeMemoryByte, hp]

/-- A byte after a complete RUN, RDCTL, RDREG or RDMEM, or after a bad command byte, does nothing (41_command_interpreter.md R197,
R198). -/
theorem commandByte_surplus {s : State} (h : (s.cmd = .runProgram ∧ 2 ≤ s.pos) ∨
    ((s.cmd = .readControl ∨ s.cmd = .readRegister ∨ s.cmd = .readMemory ∨ s.cmd = .bad) ∧ 1 ≤ s.pos)) (b : Byte) :
    commandByte b s = some s := by
  rcases h with ⟨hc, hp⟩ | ⟨hc, hp⟩
  · obtain ⟨k, hk⟩ := Nat.exists_eq_add_of_le' hp
    simp only [commandByte, hc, runByte, hk]
  · obtain ⟨k, hk⟩ := Nat.exists_eq_add_of_le' hp
    rcases hc with hc | hc | hc | hc
    · simp only [commandByte, hc, readControlByte, hk]
    · simp only [commandByte, hc, readRegisterByte, hk]
    · simp only [commandByte, hc, readMemoryByte, hk]
    · exact commandByte_bad hc b

/-- A fifth byte of write-register, and a word byte of write-memory at or past the count, is an overrun
(41_command_interpreter.md R190, R192). -/
theorem commandByte_overrun {s : State} (h : (s.cmd = .writeRegister ∧ 4 ≤ s.pos) ∨
    (s.cmd = .writeMemory ∧ 5 ≤ s.pos ∧ s.count.toNat ≤ (s.pos - 5) / 3)) (b : Byte) : commandByte b s = none := by
  rcases h with ⟨hc, hp⟩ | ⟨hc, hp, hcount⟩
  · obtain ⟨k, hk⟩ := Nat.exists_eq_add_of_le' hp
    simp only [commandByte, hc, writeRegisterByte, hk]
  · rw [commandByte_writeMemory_word (k := s.pos - 5) hc (by omega)]
    exact if_pos hcount

/-- An overrun forces the NAK (41_command_interpreter.md R187). -/
theorem operand_none {b : Byte} {s : State} (h : commandByte b s = none) : operand b s = enterNak s := by
  unfold operand
  rw [h]
  rfl

/-! ### One byte of a `data-write` session -/

/-- The command byte, taken in as its nibble's command (41_command_interpreter.md R186). -/
theorem commandWireByte_first {s t : State} {b : Byte} {c : Command} (hn : s.busState ≠ .nak) (hd : s.subdest = .dataWrite)
    (hp : s.pos = 0) (hc : pendingCommand b = c) (h : commandByte b (commandReceived c b s) = some t) :
    commandWireByte s b = { t with pos := 1 } := by
  subst hc
  have hpos : t.pos = 0 := (commandByte_frame h).pos.trans hp
  rw [(wire_first hn hp hd b).trans (operand_some h), hpos]

/-- A later byte, taken in by the pending command (41_command_interpreter.md R187). -/
theorem commandWireByte_next {s t : State} {b : Byte} (hn : s.busState ≠ .nak) (hd : s.subdest = .dataWrite)
    (hp : s.pos ≠ 0) (h : commandByte b (received b s) = some t) : commandWireByte s b = { t with pos := s.pos + 1 } := by
  have hpos : t.pos = s.pos := (commandByte_frame h).pos
  rw [(wire_next hn hp hd b).trans (operand_some h), hpos]

/-- A later byte that is an overrun (40_bus_protocol.md R158). -/
theorem commandWireByte_overrun {s : State} {b : Byte} (hn : s.busState ≠ .nak) (hd : s.subdest = .dataWrite)
    (hp : s.pos ≠ 0) (h : commandByte b (received b s) = none) : commandWireByte s b = enterNak (received b s) :=
  (wire_next hn hp hd b).trans (operand_none h)

/-- The line calls of a byte in a `data-write` session (40_bus_protocol.md R154). -/
theorem runWire_dataWrite {s : State} (hboundary : atByteBoundary s = true) (ha : s.addrStatus = .valid)
    (hd : s.subdest = .dataWrite) (b : Byte) : runWire [b] s = .next (commandWireByte s b) :=
  InDataWrite.runWire_eq (.inr ⟨hboundary, ha, hd⟩) [b]

/-- The command byte and the bytes after it. -/
theorem commandWireBytes_first {s t : State} {b : Byte} {bs : List Byte} {c : Command} (hn : s.busState ≠ .nak)
    (hd : s.subdest = .dataWrite) (hp : s.pos = 0) (hc : pendingCommand b = c)
    (h : commandByte b (commandReceived c b s) = some t) :
    commandWireBytes (b :: bs) s = commandWireBytes bs { t with pos := 1 } :=
  congrArg (commandWireBytes bs) (commandWireByte_first hn hd hp hc h)

/-- A byte inside a command, the byte before it acknowledged, and the bytes after it. -/
theorem commandWireBytes_next {s t : State} {b : Byte} {bs : List Byte} {p : Nat} (hack : s.busState = .ack)
    (hd : s.subdest = .dataWrite) (hp : s.pos = p + 1) (h : commandByte b (received b s) = some t) :
    commandWireBytes (b :: bs) s = commandWireBytes bs { t with pos := p + 2 } := by
  have hbyte := commandWireByte_next (by rw [hack]; decide) hd (by rw [hp]; exact p.succ_ne_zero) h
  rw [hp] at hbyte
  exact congrArg (commandWireBytes bs) hbyte

/-- The nibbles of the reserved command bytes (30_encoding.md R107). -/
def reservedNibbles : List (BitVec 4) := [0x2#4, 0x4#4, 0x5#4, 0x6#4, 0x7#4, 0x8#4, 0xC#4]

/-- A reserved command byte is counted only (41_command_interpreter.md R197). -/
theorem commandWireByte_bad {s : State} {b : Byte} (hn : s.busState ≠ .nak) (hd : s.subdest = .dataWrite) (hp : s.pos = 0)
    (hres : nibbleHi b ∈ reservedNibbles) : commandWireByte s b = { received b s with cmd := .bad, pos := 1 } := by
  obtain ⟨-, -, -, -, -, -, hcmd⟩ := pendingCommand_cases b
  exact commandWireByte_first hn hd hp (hcmd (by simpa [reservedNibbles] using hres))
    (commandByte_bad (s := commandReceived .bad b s) rfl b)

/-! ### Dispatches and the payload -/

/-- A register write in one update: the event, and the mute flag and outputs at the mute register (42_dispatch_gain_mute.md R231,
R237, R238). -/
theorem regWrite_eq (a : BitVec 8) (v : Half) (s : State) : regWrite a v s = { s with
    trace := s.trace ++ [.regWrite a v]
    muted := if a = s.cfg.regMute then decide (v = 1#16) else s.muted
    outGainL := if a = s.cfg.regMute then (if v = 1#16 then .zero else s.gainLL) else s.outGainL
    outGainR := if a = s.cfg.regMute then (if v = 1#16 then .zero else s.gainRR) else s.outGainR } := by
  unfold regWrite emit mute
  dsimp only
  split <;> rfl

/-- The payload transposition is its own inverse: by its bits, one case per byte (41_command_interpreter.md R200). -/
theorem transpose_transpose (f : Quad) : transpose (transpose f) = f := by
  apply BitVec.eq_of_getLsbD_eq
  intro i hi
  rw [transpose_bit]
  by_cases h8 : i < 8
  · rw [if_pos h8, transpose_bit]
    simp [show ¬ 8 + i < 8 by omega, show 8 + i < 16 by omega]
  by_cases h16 : i < 16
  · rw [if_neg h8, if_pos h16, transpose_bit]
    simp [show i - 8 < 8 by omega, show 8 + (i - 8) = i by omega]
  by_cases h24 : i < 24
  · rw [if_neg h8, if_neg h16, if_pos h24, transpose_bit]
    simp [show ¬ 8 + i < 8 by omega, show ¬ 8 + i < 16 by omega, show ¬ 8 + i < 24 by omega, show 8 + i < 32 by omega]
  · rw [if_neg h8, if_neg h16, if_neg h24, if_pos hi, transpose_bit]
    simp [show ¬ i - 8 < 8 by omega, show ¬ i - 8 < 16 by omega, show i - 8 < 24 by omega, show 8 + (i - 8) = i by omega]

/-! ### The obligations -/

/-- Settles O29, by the selection each byte makes. -/
theorem selectorBytesSelect : Obligations.SelectorBytesSelect := by
  intro s hok hsub
  have hrow (b : Byte) : acknowledge (clockIn b s) = received b s := acknowledge_clockIn (by rw [hsub]; decide) b
  refine ⟨?_, ?_, ?_, fun b hw hr hc => ?_⟩
  · exact congrArg Host.Outcome.next ((congrArg _ (hrow _)).trans (select_dataWrite (received _ s)))
  · rw [← transpose_eq_shifts]
    exact congrArg Host.Outcome.next ((congrArg _ (hrow _)).trans (select_dataRead (s := received _ s) hok))
  · exact congrArg Host.Outcome.next ((congrArg _ (hrow _)).trans (select_control (s := received _ s) hok))
  · exact congrArg Host.Outcome.next ((congrArg _ (hrow b)).trans (select_bad (s := received b s) hw hr hc))

/-- Settles O30: nothing happens after the acknowledge. -/
theorem badByteIsDiscarded : Obligations.BadByteIsDiscarded := by
  intro s b hsub
  exact congrArg Host.Outcome.next (acknowledge_clockIn (by rw [hsub]; decide) b)

/-- Settles O31: the event after the acknowledge. -/
theorem controlByteIsReported : Obligations.ControlByteIsReported := by
  intro s b hsub
  exact congrArg (fun t => Host.Outcome.next (controlByte b t)) (acknowledge_clockIn (by rw [hsub]; decide) b)

/-- Settles O32, by the position of the group. -/
theorem readGroupsAreCounted : Obligations.ReadGroupsAreCounted := by
  intro s b hsub
  have hdrive : driveLevel s 0 = s.payload.getLsbD (8 * s.pos) := by rw [driveLevel_zero, if_pos hsub]
  refine ⟨fun hpos => ?_, fun hpos => ?_⟩
  · rw [← hdrive]
    exact congrArg Host.Outcome.next (dataRead_counted (s := acknowledge (clockIn b s)) hpos)
  · rw [hpos] at hdrive
    rw [← hdrive]
    refine congrArg Host.Outcome.next ((dataRead_overrun (s := acknowledge (clockIn b s)) hpos.ge).trans ?_)
    rw [enterNak, releasedSda_eq]
    rfl

/-- Settles O33: the shifts and masks, and the involution. -/
theorem transposeSwapsBytesOfHalves : Obligations.TransposeSwapsBytesOfHalves :=
  fun f => ⟨transpose_eq_shifts f, transpose_transpose f⟩

/-- Settles O34, byte by byte. -/
theorem runReportsTheProgramAddress : Obligations.RunReportsTheProgramAddress := by
  intro s x a hn hd hp
  obtain ⟨hcmd, -⟩ := pendingCommand_cases (0#3 ++ BitVec.ofBool x ++ a.extractLsb' 8 4)
  have hadr : withHalfLow (runAddrHigh (0#3 ++ BitVec.ofBool x ++ a.extractLsb' 8 4)) (a.extractLsb' 0 8) = a.setWidth 16 := by
    rw [run_address, op3_low]
    exact congrArg _ (append_extract (n := 4) (m := 8) a)
  refine congrArg Host.Outcome.next ?_
  refine (commandWireBytes_first hn hd hp (hcmd (op3_nibble_cases _ _ _))
    (commandByte_run_zero (s := commandReceived .runProgram _ s) rfl hp _)).trans ?_
  refine Eq.trans (commandWireBytes_next rfl hd rfl (commandByte_run_one rfl rfl _)) ?_
  simp only [received, commandReceived, hadr, lowByte_bit0]
  rfl

/-- Settles O35, byte by byte; the dispatch is the last byte's. -/
theorem writeRegisterDispatches : Obligations.WriteRegisterDispatches := by
  intro s r x v hn hd hp
  obtain ⟨-, -, hcmd, -⟩ := pendingCommand_cases (0x9#4 ++ r.extractLsb' 4 4)
  have hadr : withRegAddrLow (regAddrHigh (0x9#4 ++ r.extractLsb' 4 4)) (r.extractLsb' 0 4 ++ x) = r.setWidth 16 := by
    rw [register_address, nibbleLo_append, nibbleHi_append]
    exact congrArg _ (append_extract (n := 4) (m := 4) r)
  have hval : withValLow (valHigh (byteHi v)) (byteLo v) = v.setWidth 20 := by
    rw [register_value, byteHi_append_byteLo]
  have hbit : (byteLo v).getLsbD 0 = v.getLsbD 0 := lowByte_bit0 v
  refine congrArg Host.Outcome.next ?_
  refine (commandWireBytes_first hn hd hp (hcmd (nibbleHi_append _ _))
    (commandByte_writeRegister_zero (s := commandReceived .writeRegister _ s) rfl hp _)).trans ?_
  refine Eq.trans (commandWireBytes_next rfl hd rfl (commandByte_writeRegister_one rfl rfl _)) ?_
  refine Eq.trans (commandWireBytes_next rfl hd rfl (commandByte_writeRegister_two rfl rfl _)) ?_
  refine Eq.trans (commandWireBytes_next rfl hd rfl (commandByte_writeRegister_three rfl rfl _)) ?_
  simp only [received, commandReceived, hadr, hval, regAddr_setWidth, regValue_setWidth, regWrite_eq, hbit]
  rfl

/-- Settles O37: the command byte of nibble 3. -/
theorem readControlIsReported : Obligations.ReadControlIsReported := by
  intro s x hn hd hp
  obtain ⟨-, hcmd, -⟩ := pendingCommand_cases (0x3#4 ++ x)
  refine congrArg Host.Outcome.next ((commandWireByte_first hn hd hp (hcmd (nibbleHi_append _ _))
    (commandByte_readControl_zero (s := commandReceived .readControl _ s) rfl hp _)).trans ?_)
  simp only [emit, commandReceived, received, append_bit0 (Nat.succ_pos 3)]

/-- Settles O38: the command byte of nibble D. -/
theorem readRegisterIsReported : Obligations.ReadRegisterIsReported := by
  intro s x hn hd hp
  obtain ⟨-, -, -, -, hcmd, -⟩ := pendingCommand_cases (0xD#4 ++ x)
  refine congrArg Host.Outcome.next ((commandWireByte_first hn hd hp (hcmd (nibbleHi_append _ _))
    (commandByte_readRegister_zero (s := commandReceived .readRegister _ s) rfl hp _)).trans ?_)
  simp only [emit, commandReceived, received, append_bit0 (Nat.succ_pos 3)]

/-- Settles O39: the command byte of nibbles E and F, whose bit 4 is the bank. -/
theorem readMemoryIsReported : Obligations.ReadMemoryIsReported := by
  intro s bank x hn hd hp
  obtain ⟨-, -, -, -, -, hcmd, -⟩ := pendingCommand_cases (0b111#3 ++ BitVec.ofBool bank ++ x)
  refine congrArg Host.Outcome.next ((commandWireByte_first hn hd hp (hcmd (op3_nibble_cases _ _ _))
    (commandByte_readMemory_zero (s := commandReceived .readMemory _ s) rfl hp _)).trans ?_)
  simp only [emit, commandReceived, received, op3_bit4, append_bit0 (Nat.succ_pos 3)]

/-- Settles O40: each of the reserved nibbles selects the bad command. -/
theorem reservedCommandsAreCountedOnly : Obligations.ReservedCommandsAreCountedOnly := by
  intro s hn hd hp
  have hnibble {h : BitVec 4} (hres : h ∈ reservedNibbles) (x : BitVec 4) :
      commandWireByte s (h ++ x) = { received (h ++ x) s with sdaIn := x.getLsbD 0, cmd := .bad, pos := 1 } := by
    rw [commandWireByte_bad hn hd hp (by rwa [nibbleHi_append]), received, append_bit0 (Nat.succ_pos 3)]
  refine ⟨fun x => ?_, fun x => ?_, fun x => ?_, fun x => ?_⟩
  · exact congrArg Host.Outcome.next (hnibble (by decide) x)
  · have hres : nibbleHi (0b01#2 ++ x) ∈ reservedNibbles := by
      rcases op2_nibble_cases x with h | h | h | h <;> (rw [h]; decide)
    refine congrArg Host.Outcome.next ((commandWireByte_bad hn hd hp hres).trans ?_)
    rw [received, append_bit0 (Nat.succ_pos 5)]
  · exact congrArg Host.Outcome.next (hnibble (by decide) x)
  · exact congrArg Host.Outcome.next (hnibble (by decide) x)

/-- Settles O41: the byte is counted and does nothing. -/
theorem surplusBytesAreIgnored : Obligations.SurplusBytesAreIgnored := by
  intro s b hboundary ha hd hsurplus
  have hp : s.pos ≠ 0 := by
    rcases hsurplus with ⟨-, hp⟩ | ⟨-, hp⟩ <;> omega
  rw [runWire_dataWrite hboundary ha hd, commandWireByte_next (atByteBoundary_ne_nak hboundary) hd hp
    (commandByte_surplus (s := received b s) hsurplus b)]
  rfl

/-- Settles O42: the byte forces the NAK. -/
theorem overrunsForceNak : Obligations.OverrunsForceNak := by
  intro s b hboundary ha hd hoverrun
  have hp : s.pos ≠ 0 := by
    rcases hoverrun with ⟨-, hp⟩ | ⟨-, hp, -⟩ <;> omega
  rw [runWire_dataWrite hboundary ha hd, commandWireByte_overrun (atByteBoundary_ne_nak hboundary) hd hp
    (commandByte_overrun (s := received b s) hoverrun b), enterNak, releasedSda_eq]
  rfl

end Sys2Proof.Machine
end

section
/-! SUPPORT. Write-memory on the wire: its header, the three bytes of a word, and by induction on the words the state after any
number of them within the count (O36, O59). -/

namespace Sys2Proof.Machine

open Sys2Proof.Config

/-! ### The bytes of one word -/

/-- The first two bytes of a word fill bits 15 to 0 (41_command_interpreter.md R192). -/
theorem withValLow_valHigh_eq (b0 b1 : Byte) : withValLow (valHigh b0) b1 = 0#4 ++ b0 ++ b1 := by
  have hword : withValTop (withValLow (valHigh b0) b1) 0#8 = 0#4 ++ b0 ++ b1 := memory_word b0 b1 0#8
  rw [← hword]
  exact BitVec.or_zero.symm

/-- The first byte of a word fills bits 15 to 8. -/
theorem valHigh_eq (b0 : Byte) : valHigh b0 = 0#4 ++ b0 ++ 0#8 := by
  rw [← withValLow_valHigh_eq]
  exact BitVec.or_zero.symm

/-- A write-memory session that awaits byte `j` of word `k`, which is within the count (41_command_interpreter.md R192). -/
structure AtWordByte (k j : Nat) (s : State) : Prop where
  ack : s.busState = .ack
  subdest : s.subdest = .dataWrite
  cmd : s.cmd = .writeMemory
  pos : s.pos = 3 * k + j + 5
  count : k < s.count.toNat

/-- The session after a byte of a word that was only assembled. -/
theorem AtWordByte.next {k j : Nat} {s : State} (h : AtWordByte k j s) (b : Byte) (v : MemWord) :
    AtWordByte k (j + 1) { received b s with val := v, pos := s.pos + 1 } where
  ack := rfl
  subdest := h.subdest
  cmd := h.cmd
  pos := congrArg (· + 1) h.pos
  count := h.count

/-- A word byte, taken in by its place after the header. -/
theorem AtWordByte.commandWireByte_eq {k j : Nat} {s t : State} {b : Byte} (h : AtWordByte k j s)
    (hbyte : memoryWordByte (3 * k + j) b (received b s) = some t) : commandWireByte s b = { t with pos := s.pos + 1 } := by
  have hp : s.pos ≠ 0 := by rw [h.pos]; omega
  refine commandWireByte_next (by rw [h.ack]; decide) h.subdest hp ?_
  rw [commandByte_writeMemory_word (s := received b s) h.cmd h.pos, hbyte]

theorem AtWordByte.first {k : Nat} {s : State} (h : AtWordByte k 0 s) (b : Byte) :
    commandWireByte s b = { received b s with val := valHigh b, pos := s.pos + 1 } :=
  h.commandWireByte_eq (memoryWordByte_zero (s := received b s) h.count b)

theorem AtWordByte.second {k : Nat} {s : State} (h : AtWordByte k 1 s) (b : Byte) :
    commandWireByte s b = { received b s with val := withValLow s.val b, pos := s.pos + 1 } :=
  h.commandWireByte_eq (memoryWordByte_one (s := received b s) h.count b)

theorem AtWordByte.third {k : Nat} {s : State} (h : AtWordByte k 2 s) (b : Byte) :
    commandWireByte s b = { memWrite s.bank (wordAddr s.adr k) (withValTop s.val b)
      { received b s with val := withValTop s.val b } with pos := s.pos + 1 } :=
  h.commandWireByte_eq (memoryWordByte_two (s := received b s) h.count b)

/-- The first two bytes of a word are only assembled (41_command_interpreter.md R192). -/
theorem AtWordByte.firstTwo {k : Nat} {s : State} (h : AtWordByte k 0 s) (b0 b1 : Byte) :
    commandWireBytes [b0, b1] s = { received b1 s with val := withValLow (valHigh b0) b1, pos := s.pos + 2 } :=
  (congrArg (commandWireByte · b1) (h.first b0)).trans ((h.next b0 _).second b1)

/-- The third byte of a word on the wire, which holds its top nibble (30_encoding.md R111). -/
def lastByte (w : WireWord) : Byte := w.pad ++ w.w.extractLsb' 16 4

/-- The three bytes of a word: its dispatch, with the effect at the gain locations (41_command_interpreter.md R192,
42_dispatch_gain_mute.md R232 to R236). -/
theorem AtWordByte.word {k : Nat} {s : State} (h : AtWordByte k 0 s) (hok : s.cfg.ok = true) (w : WireWord) :
    commandWireBytes (encodeWord w) s = { received (lastByte w) s with
      val := w.w, pos := s.pos + 3
      trace := s.trace ++ [.memWrite s.bank (wordAddr s.adr k) w.w]
      gainLL := if MemLoc.mk s.bank (wordAddr s.adr k) = s.cfg.memGainLL then gainOf w.w else s.gainLL
      gainRR := if MemLoc.mk s.bank (wordAddr s.adr k) = s.cfg.memGainRR then gainOf w.w else s.gainRR
      outGainL := if s.muted then s.outGainL
        else if MemLoc.mk s.bank (wordAddr s.adr k) = s.cfg.memGainLL then gainOf w.w else s.outGainL
      outGainR := if s.muted then s.outGainR
        else if MemLoc.mk s.bank (wordAddr s.adr k) = s.cfg.memGainRR then gainOf w.w else s.outGainR } := by
  have hval : withValTop (withValLow (valHigh (w.w.extractLsb' 8 8)) (w.w.extractLsb' 0 8)) (lastByte w) = w.w := by
    rw [memory_word]
    exact congrArg WireWord.w (wireWord_of_encodeWord w)
  have hthird := ((h.next (w.w.extractLsb' 8 8) (valHigh (w.w.extractLsb' 8 8))).next (w.w.extractLsb' 0 8)
    (withValLow (valHigh (w.w.extractLsb' 8 8)) (w.w.extractLsb' 0 8))).third (lastByte w)
  dsimp only at hthird
  rw [hval] at hthird
  refine Eq.trans (congrArg (commandWireByte · (lastByte w)) (h.firstTwo _ _)) (hthird.trans ?_)
  rw [memWrite_eq (by exact hok)]
  rfl

/-! ### The state after a number of words -/

/-- What a gain location keeps of the words written from address `a` on: the last one written to it, else what it held. -/
def lastWordAt (bank : Bool) (a : Half) (ws : List WireWord) (loc : MemLoc) (g : GainVal) : GainVal :=
  ws.zipIdx.foldl (fun g p => if MemLoc.mk bank (a + BitVec.ofNat 16 p.2) = loc then gainOf p.1.w else g) g

/-- The events of the words written from address `a` on. -/
def wordEvents (bank : Bool) (a : Half) (ws : List WireWord) : List OutEvent :=
  ws.zipIdx.map fun p => .memWrite bank (a + BitVec.ofNat 16 p.2) p.1.w

theorem lastWordAt_snoc (bank : Bool) (a : Half) (ws : List WireWord) (w : WireWord) (loc : MemLoc) (g : GainVal) :
    lastWordAt bank a (ws ++ [w]) loc g =
      if MemLoc.mk bank (wordAddr a ws.length) = loc then gainOf w.w else lastWordAt bank a ws loc g := by
  simp only [lastWordAt, List.zipIdx_append, List.foldl_append, Nat.zero_add, List.zipIdx_singleton, List.foldl_cons,
    List.foldl_nil]
  rfl

theorem wordEvents_snoc (bank : Bool) (a : Half) (ws : List WireWord) (w : WireWord) :
    wordEvents bank a (ws ++ [w]) = wordEvents bank a ws ++ [.memWrite bank (wordAddr a ws.length) w.w] := by
  simp only [wordEvents, List.zipIdx_append, List.map_append, Nat.zero_add, List.zipIdx_singleton, List.map_cons,
    List.map_nil]
  rfl

/-- A write-memory session after its header and the words `ws`, the last byte on the wire `last`. -/
def memoryWritten (bank : Bool) (n a : Half) (ws : List WireWord) (last : Byte) (s : State) : State :=
  { received last s with
    cmd := .writeMemory, pos := 5 + 3 * ws.length, bank := bank, count := n, adr := a
    val := (ws.getLast?.map WireWord.w).getD s.val
    trace := s.trace ++ wordEvents bank a ws
    gainLL := lastWordAt bank a ws s.cfg.memGainLL s.gainLL
    gainRR := lastWordAt bank a ws s.cfg.memGainRR s.gainRR
    outGainL := if s.muted then s.outGainL else lastWordAt bank a ws s.cfg.memGainLL s.outGainL
    outGainR := if s.muted then s.outGainR else lastWordAt bank a ws s.cfg.memGainRR s.outGainR }

/-- With words left within the count the next one is awaited. -/
theorem memoryWritten_atWordByte {s : State} (hd : s.subdest = .dataWrite) (bank : Bool) {n : Half} (a : Half)
    {ws : List WireWord} (hlen : ws.length < n.toNat) (last : Byte) :
    AtWordByte ws.length 0 (memoryWritten bank n a ws last s) where
  ack := rfl
  subdest := hd
  cmd := rfl
  pos := Nat.add_comm 5 _
  count := hlen

/-- The header of write-memory (41_command_interpreter.md R192). -/
theorem commandWireBytes_header {s : State} (hn : s.busState ≠ .nak) (hd : s.subdest = .dataWrite) (hp : s.pos = 0)
    (bank : Bool) (x : BitVec 4) (n a : Half) :
    commandWireBytes [0b101#3 ++ BitVec.ofBool bank ++ x, byteHi n, byteLo n, byteHi a, byteLo a] s =
      memoryWritten bank n a [] (byteLo a) s := by
  obtain ⟨-, -, -, hcmd, -⟩ := pendingCommand_cases (0b101#3 ++ BitVec.ofBool bank ++ x)
  have hhalf (v : Half) : withHalfLow (halfHigh (byteHi v)) (byteLo v) = v := by rw [half_value, byteHi_append_byteLo]
  refine Eq.trans (commandWireBytes_first hn hd hp (hcmd (op3_nibble_cases _ _ _))
    (commandByte_writeMemory_zero (s := commandReceived .writeMemory _ s) rfl hp _)) ?_
  refine Eq.trans (commandWireBytes_next rfl hd rfl (commandByte_writeMemory_one rfl rfl _)) ?_
  refine Eq.trans (commandWireBytes_next rfl hd rfl (commandByte_writeMemory_two rfl rfl _)) ?_
  refine Eq.trans (commandWireBytes_next rfl hd rfl (commandByte_writeMemory_three rfl rfl _)) ?_
  refine Eq.trans (commandWireBytes_next rfl hd rfl (commandByte_writeMemory_four rfl rfl _)) ?_
  simp only [received, commandReceived, hhalf, op3_bit4, memoryWritten, wordEvents, lastWordAt, List.zipIdx_nil, List.map_nil,
    List.append_nil, List.foldl_nil, ite_self]
  rfl

/-- One more word within the count. -/
theorem commandWireBytes_memoryWritten {s : State} (hok : s.cfg.ok = true) (hd : s.subdest = .dataWrite) (bank : Bool)
    {n : Half} (a : Half) {ws : List WireWord} (hlen : ws.length < n.toNat) (last : Byte) (w : WireWord) :
    commandWireBytes (encodeWord w) (memoryWritten bank n a ws last s) =
      memoryWritten bank n a (ws ++ [w]) (lastByte w) s := by
  rw [(memoryWritten_atWordByte hd bank a hlen last).word hok w]
  have hval : ((ws ++ [w]).getLast?.map WireWord.w).getD s.val = w.w := by simp
  have hlength : (ws ++ [w]).length = ws.length + 1 := by simp
  simp only [memoryWritten, received, lastWordAt_snoc, wordEvents_snoc, hval, hlength, List.append_assoc]
  by_cases hm : s.muted = true
  · simp only [if_pos hm]; rfl
  · simp only [if_neg hm]; rfl

theorem commandWireBytes_append (xs ys : List Byte) (s : State) :
    commandWireBytes (xs ++ ys) s = commandWireBytes ys (commandWireBytes xs s) := List.foldl_append

theorem encode_wrmem_snoc (c : Params) (bank : Bool) (x : BitVec 4) (n a : Half) (ws : List WireWord) (w : WireWord) :
    encode c (.wrmem bank x n a (ws ++ [w])) = encode c (.wrmem bank x n a ws) ++ encodeWord w := by
  simp [encode]

/-- The header and the words, by induction on the words from the last one (41_command_interpreter.md R192). -/
theorem commandWireBytes_wrmem {s : State} (hok : s.cfg.ok = true) (hn : s.busState ≠ .nak) (hd : s.subdest = .dataWrite)
    (hp : s.pos = 0) (bank : Bool) (x : BitVec 4) (n a : Half) (ws : List WireWord) (hlen : ws.length ≤ n.toNat) :
    ∃ last, commandWireBytes (encode s.cfg (.wrmem bank x n a ws)) s = memoryWritten bank n a ws last s ∧
      some last = (encode s.cfg (.wrmem bank x n a ws)).getLast? := by
  induction ws using List.reverseRecOn with
  | nil => exact ⟨byteLo a, commandWireBytes_header hn hd hp bank x n a, rfl⟩
  | append_singleton ws w ih =>
    have hlt : ws.length < n.toNat := by simpa using hlen
    obtain ⟨last, hrun, -⟩ := ih hlt.le
    refine ⟨lastByte w, ?_, ?_⟩
    · rw [encode_wrmem_snoc, commandWireBytes_append, hrun]
      exact commandWireBytes_memoryWritten hok hd bank a hlt last w
    · rw [encode_wrmem_snoc]
      simp [encodeWord, lastByte]

/-! ### The obligations -/

/-- Settles O36: the state after all words. -/
theorem writeMemoryDispatchesEveryWord : Obligations.WriteMemoryDispatchesEveryWord := by
  intro s bank x n a ws hok hn hd hp hlen
  obtain ⟨last, hrun, hlast⟩ := commandWireBytes_wrmem hok hn hd hp bank x n a ws hlen.le
  refine ⟨memoryWritten bank n a ws last s, congrArg Host.Outcome.next hrun, rfl, ?_, hlast, rfl⟩
  rw [← hlen]
  rfl

/-- Settles O59: the state after the words sent, and the two bytes of a further one. -/
theorem wordsAreDispatchedAsTheyComplete : Obligations.WordsAreDispatchedAsTheyComplete := by
  intro s bank x n a ws hok hformat hlen
  obtain ⟨hboundary, ha, hd, hp⟩ := byteFormat_cases hformat
  obtain ⟨last, hrun, hlast⟩ :=
    commandWireBytes_wrmem hok (atByteBoundary_ne_nak hboundary) hd hp bank x n a ws hlen
  have hwire (bs : List Byte) : runWire bs s = .next (commandWireBytes bs s) :=
    InDataWrite.runWire_eq (.inr ⟨hboundary, ha, hd⟩) bs
  refine ⟨memoryWritten bank n a ws last s, (hwire _).trans (congrArg Host.Outcome.next hrun), rfl, rfl, hlast, rfl, ?_⟩
  intro hmore b0 b1
  have hword := memoryWritten_atWordByte hd bank a hmore last
  refine ⟨?_, ?_⟩
  · rw [hwire, commandWireBytes_append, hrun, ← valHigh_eq]
    exact congrArg Host.Outcome.next (hword.first b0)
  · rw [hwire, commandWireBytes_append, hrun, ← withValLow_valHigh_eq]
    exact congrArg Host.Outcome.next (hword.firstTwo b0 b1)

end Sys2Proof.Machine
end

section
/-! SUPPORT. The gain table against the decibel law, in whole numbers and over the reals (O46, O47). -/

namespace Sys2Proof.Machine

/-! ### The table in whole numbers -/

/-- The thresholds of 42_dispatch_gain_mute.md R241, scaled by `10^229`: `x` has a decibel of at least `d` from the one at
`k = 2d + 228` on, since `10^(2d-1) * 10^229 = 10^k`. -/
def decibelBound (k : Int) : Nat := 524288 ^ 40 * 10 ^ k.toNat

/-- `x^40` at the scale of the thresholds (42_dispatch_gain_mute.md R241). -/
def scaledPower (x : Nat) : Nat := x ^ 40 * 10 ^ 229

theorem scaledPower_mono {x y : Nat} (h : x ≤ y) : scaledPower x ≤ scaledPower y :=
  Nat.mul_le_mul_right _ (Nat.pow_le_pow_left h 40)

/-- The general law of 42_dispatch_gain_mute.md R241: `d` is the decibel of `x`. -/
def MeetsDecibelLaw (x : Nat) (d : Int) : Prop :=
  decibelBound (2 * d + 228) ≤ scaledPower x ∧ scaledPower x < decibelBound (2 * d + 230)

/-- The law at both ends of each row, the first row beginning at `first` and each later one just past the one before it. -/
def rowsMeetLaw : Nat → List (Nat × Int) → Bool
  | _, [] => true
  | first, (upTo, d) :: rows =>
    decide (decibelBound (2 * d + 228) ≤ scaledPower first) && decide (scaledPower upTo < decibelBound (2 * d + 230)) &&
      rowsMeetLaw (upTo + 1) rows

/-- Inside a row the law follows from its ends, by monotony; so it holds of every lookup the rows cover. -/
theorem lookupDb_meetsDecibelLaw {first x : Nat} {rows : List (Nat × Int)} (h : rowsMeetLaw first rows = true)
    (hfirst : first ≤ x) (hlast : ∃ r ∈ rows, x ≤ r.1) : MeetsDecibelLaw x (lookupDb rows x) := by
  induction rows generalizing first with
  | nil => simp at hlast
  | cons row rows ih =>
    obtain ⟨upTo, d⟩ := row
    simp only [rowsMeetLaw, Bool.and_eq_true, decide_eq_true_eq] at h
    obtain ⟨⟨hlower, hupper⟩, hrest⟩ := h
    rw [lookupDb]
    split
    next hx => exact ⟨hlower.trans (scaledPower_mono hfirst), (scaledPower_mono hx).trans_lt hupper⟩
    next hx => exact ih hrest (by omega) (by simpa [hx] using hlast)

/-- The model's rows have the ends the law gives them, each evaluated exactly (42_dispatch_gain_mute.md R241). -/
theorem gainTable_meetsLaw : rowsMeetLaw 1 gainTable = true := by decide

/-- The table covers every `x` of 42_dispatch_gain_mute.md R239, from 1 on to its last row's end. -/
theorem gainToDb_meetsDecibelLaw (raw : MemWord) : MeetsDecibelLaw (0x100000 - raw.toNat) (gainToDb raw) :=
  lookupDb_meetsDecibelLaw gainTable_meetsLaw (by have := raw.isLt; omega)
    ⟨(1048576, 6), by decide, Nat.sub_le _ _⟩

/-! ### The law over the reals -/

theorem logb_pow_mul_ten_pow {n : Nat} (hn : n ≠ 0) (m k : Nat) :
    Real.logb 10 ((n ^ m * 10 ^ k : Nat) : ℝ) = m * Real.logb 10 n + k := by
  have hn' : (n : ℝ) ≠ 0 := Nat.cast_ne_zero.mpr hn
  push_cast
  rw [Real.logb_mul (pow_ne_zero _ hn') (by positivity), Real.logb_pow, Real.logb_pow,
    Real.logb_self_eq_one (by norm_num), mul_one]

theorem logb_decibelBound {k : Int} (hk : 0 ≤ k) :
    Real.logb 10 (decibelBound k : ℝ) = 40 * Real.logb 10 524288 + k := by
  have hcast : (k.toNat : ℝ) = k := by exact_mod_cast Int.toNat_of_nonneg hk
  rw [decibelBound, logb_pow_mul_ten_pow (by decide), hcast, Nat.cast_ofNat, Nat.cast_ofNat]

theorem logb_scaledPower {x : Nat} (hx : x ≠ 0) :
    Real.logb 10 (scaledPower x : ℝ) = 40 * Real.logb 10 x + 229 := by
  rw [scaledPower, logb_pow_mul_ten_pow hx, Nat.cast_ofNat, Nat.cast_ofNat]

theorem decibelBound_pos (k : Int) : 0 < decibelBound k := by unfold decibelBound; positivity

theorem scaledPower_pos {x : Nat} (hx : x ≠ 0) : 0 < scaledPower x := by unfold scaledPower; positivity

/-- The law is the rounding of 42_dispatch_gain_mute.md R239: its logarithm says that `20 * log10 (x / 524288)` is at least
`d - 1/2` and less than `d + 1/2`. -/
theorem MeetsDecibelLaw.round_decibel {x : Nat} {d : Int} (h : MeetsDecibelLaw x d) (hx : x ≠ 0) (hd : -114 ≤ d) :
    round (20 * Real.logb 10 ((x : ℝ) / 524288)) = d := by
  obtain ⟨hlower, hupper⟩ := h
  have hlow := Real.logb_le_logb_of_le (b := 10) (by norm_num) (Nat.cast_pos.mpr (decibelBound_pos _))
    (Nat.cast_le.mpr hlower)
  have hup := Real.logb_lt_logb (b := 10) (by norm_num) (Nat.cast_pos.mpr (scaledPower_pos hx)) (Nat.cast_lt.mpr hupper)
  rw [logb_decibelBound (by omega), logb_scaledPower hx] at hlow hup
  push_cast at hlow hup
  rw [round_eq, Int.floor_eq_iff, Real.logb_div (Nat.cast_ne_zero.mpr hx) (by norm_num)]
  constructor <;> linarith

/-! ### The obligations -/

/-- Settles O47, by the law at the ends of the table's rows. -/
theorem gainTableMeetsTheDecibelLaw : Obligations.GainTableMeetsTheDecibelLaw := by
  intro raw _
  obtain ⟨hmin, hmax⟩ := gainToDb_range raw
  exact ⟨hmin, hmax, gainToDb_meetsDecibelLaw raw⟩

/-- Settles O46, by the logarithm of the law. -/
theorem gainIsTheRoundedDecibel : Obligations.GainIsTheRoundedDecibel := by
  refine ⟨rfl, rfl, fun raw hraw => ?_⟩
  have hlt : raw.toNat < 0x100000 := raw.isLt
  have hround := (gainToDb_meetsDecibelLaw raw).round_decibel (by omega) (gainToDb_range raw).1
  rw [Nat.cast_sub hlt.le, Nat.cast_ofNat] at hround
  have hgain : gainOf raw = .db (gainToDb raw) := if_neg hraw
  rw [hround, hgain]
  exact ⟨rfl, rfl⟩

end Sys2Proof.Machine
end

section
/-! SUPPORT. The register and memory writes and the mute (O43, O44, O45). -/

namespace Sys2Proof.Machine

open Sys2Proof.Config

theorem exec_regWrite (a : BitVec 8) (v : Half) (s : State) : exec (.regWrite a v) s = .next (regWrite a v s) := rfl

theorem exec_memWrite (bank : Bool) (a : Half) (v : MemWord) (s : State) :
    exec (.memWrite bank a v) s = .next (memWrite bank a v s) := rfl

/-- The two channels' gain locations differ (00_scope.md R11). -/
theorem memGain_ne_of_ok {c : Params} (hok : c.ok = true) : c.memGainLL ≠ c.memGainRR := by
  simp only [Params.ok, Bool.and_eq_true, decide_eq_true_eq] at hok
  obtain ⟨⟨-, -, -, hne, -⟩, -⟩ := hok
  exact hne

/-! ### Memory writes while muted -/

/-- The mute is set and both outputs are silent, in a block with the parameters `c` (42_dispatch_gain_mute.md R237). -/
structure Silenced (c : Params) (s : State) : Prop where
  cfg : s.cfg = c
  muted : s.muted = true
  outGainL : s.outGainL = .zero
  outGainR : s.outGainR = .zero

/-- A 1 in the mute register silences the block (42_dispatch_gain_mute.md R237). -/
theorem silenced_regWrite_mute (s : State) : Silenced s.cfg (regWrite s.cfg.regMute 1#16 s) := by
  rw [regWrite_eq]
  exact ⟨rfl, by simp, by simp, by simp⟩

theorem Silenced.emit {c : Params} {s : State} (h : Silenced c s) (e : OutEvent) : Silenced c (emit e s) :=
  ⟨h.cfg, h.muted, h.outGainL, h.outGainR⟩

/-- While muted, the left channel's gain is remembered and not applied (42_dispatch_gain_mute.md R234). -/
theorem Silenced.gainLeft {c : Params} {s : State} (h : Silenced c s) (v : MemWord) : Silenced c (gainLeft v s) :=
  ⟨h.cfg, h.muted, (if_pos h.muted).trans h.outGainL, h.outGainR⟩

/-- While muted, the right channel's gain is remembered and not applied (42_dispatch_gain_mute.md R235). -/
theorem Silenced.gainRight {c : Params} {s : State} (h : Silenced c s) (v : MemWord) : Silenced c (gainRight v s) :=
  ⟨h.cfg, h.muted, h.outGainL, (if_pos h.muted).trans h.outGainR⟩

/-- A memory write keeps the silence: at the left location, at the right one, and anywhere else (R232). -/
theorem Silenced.memWrite {c : Params} {s : State} (h : Silenced c s) (bank : Bool) (a : Half) (v : MemWord) :
    Silenced c (memWrite bank a v s) := by
  unfold Machine.memWrite
  dsimp only
  split
  · exact (h.emit _).gainLeft v
  split
  · exact (h.emit _).gainRight v
  · exact h.emit _

/-- Silence lasts over any memory writes, by induction on them. -/
theorem Silenced.runInstrs_memWrites {c : Params} {s : State} (h : Silenced c s) (ws : List (MemLoc × MemWord)) :
    ∃ t, runInstrs (ws.map fun p => .memWrite p.1.bank p.1.addr p.2) s = .next t ∧ Silenced c t := by
  induction ws generalizing s with
  | nil => exact ⟨s, rfl, h⟩
  | cons w ws ih => exact ih (h.memWrite w.1.bank w.1.addr w.2)

/-! ### The obligations -/

/-- Settles O43, by the address and the value. -/
theorem registerWriteEffect : Obligations.RegisterWriteEffect := by
  intro s a v
  simp only [exec_regWrite, regWrite_eq]
  refine ⟨fun ha => ?_, fun ha hv => ?_, fun ha hv => ?_⟩
  · simp only [if_neg ha]
  · simp only [if_pos ha, if_pos hv, decide_eq_true hv]
  · simp only [if_pos ha, if_neg hv, decide_eq_false hv]

/-- Settles O44, by the location: the two channels' locations differ (00_scope.md R11). -/
theorem memoryWriteEffect : Obligations.MemoryWriteEffect := by
  intro s bank a v hok
  simp only [exec_memWrite, memWrite_eq hok]
  have hne := memGain_ne_of_ok hok
  refine ⟨fun hl => ?_, fun hr => ?_, fun hl hr => ?_⟩
  · simp [← hl, hne]
  · simp [← hr, hne.symm]
  · simp [hl.symm, hr.symm]

/-- Settles O45, by the silence kept while muted and the effect of the register write that ends it. -/
theorem unmuteRestoresTheGains : Obligations.UnmuteRestoresTheGains := by
  intro s ws v hv
  obtain ⟨t, hrun, hcfg, hmuted, houtL, houtR⟩ := (silenced_regWrite_mute s).runInstrs_memWrites ws
  have hclear := (registerWriteEffect t s.cfg.regMute v).2.2 (by rw [hcfg]) hv
  exact ⟨t, _, hrun, hmuted, houtL, houtR, hclear, rfl, rfl, rfl, rfl, rfl⟩

end Sys2Proof.Machine
end

section
/-! SUPPORT. Line calls and wire bytes leave the pipeline, pipeline calls leave the bus side (O10). -/

namespace Sys2Proof.Machine

open Sys2Proof.Config

/-! ### The line calls leave the pipeline -/

theorem SamePipeline.trans {s t u : State} (h : SamePipeline s t) (k : SamePipeline t u) : SamePipeline s u := by
  unfold SamePipeline at *
  simp only [k, h, and_self]

/-- The one state an operation answers. -/
theorem SamePipeline.of_next {s t u : State} (h : (.next u : Result) = .next t) (p : SamePipeline s u) : SamePipeline s t := by
  cases h
  exact p

/-- A bit cell, also the eighth, which completes a byte (40_bus_protocol.md R150 to R152). -/
theorem bitCell_samePipeline {s t : State} (h : bitCell s = .next t) : SamePipeline s t := by
  obtain ⟨acc, sda, idx, rfl | rfl⟩ := bitCell_cases h
  · exact .refl s
  · exact (byteComplete_frame { s with acc := acc, sdaOut := sda, bitIdx := idx }).pipeline

/-- The four calls of the bus master (40_bus_protocol.md R142 to R145). -/
theorem exec_lineCall_samePipeline {k : Call} {s t : State} (hk : isLineCall k = true) (h : exec k.toInstr s = .next t) :
    SamePipeline s t := by
  cases k with
  | setClock l =>
    obtain hcell | ⟨bus, idx, acc, rfl⟩ := execSetClock_cases h
    · exact bitCell_samePipeline (s := { s with sclIn := true }) hcell
    · exact .refl s
  | setData l => obtain rfl | rfl | rfl := execSetData_cases h <;> exact .refl s
  | readClock | readData => exact .of_next h (.refl s)
  | feedByte | produce | reset => cases hk

/-! ### The byte rows leave the pipeline -/

/-- A selection reads the frame counter and writes no pipeline element (41_command_interpreter.md R181, R200). -/
theorem select_samePipeline (b : Byte) (s : State) : SamePipeline s (select b s) := by
  unfold select
  repeat' split
  all_goals exact .refl s

theorem dataRead_samePipeline (s : State) : SamePipeline s (dataRead s) := by
  unfold dataRead
  split <;> exact .refl s

/-- A byte of a command, consumed or clocked past in `Nak`. -/
theorem commandWireByte_samePipeline (s : State) (b : Byte) : SamePipeline s (commandWireByte s b) := by
  unfold commandWireByte
  split
  · exact .refl s
  · exact (dataWrite_frame b (acknowledge (clockIn b s))).pipeline

/-- A command row, by induction on its bytes. -/
theorem commandWireBytes_samePipeline (bs : List Byte) (s : State) : SamePipeline s (commandWireBytes bs s) := by
  induction bs generalizing s with
  | nil => exact .refl s
  | cons b bs ih => exact (commandWireByte_samePipeline s b).trans (ih _)

/-- An operation with wire bytes, by its format (30_encoding.md R103). -/
theorem exec_wire_samePipeline {i : Instr} {f : ByteFormat} {s t : State} (hf : i.format = some f) (h : exec i s = .next t) :
    SamePipeline s t := by
  cases f with
  | address =>
    obtain ⟨b, -, hx⟩ := exec_address hf s
    exact .of_next (hx.symm.trans h) (addressByte_frame b (clockIn b s)).pipeline
  | selector =>
    obtain ⟨b, -, hx⟩ := exec_selector hf s
    exact .of_next (hx.symm.trans h) (select_samePipeline b (acknowledge (clockIn b s)))
  | command => exact .of_next ((exec_command hf s).symm.trans h) (commandWireBytes_samePipeline _ s)
  | read =>
    cases i with
    | dataReadGroup b => exact .of_next h (dataRead_samePipeline (acknowledge (clockIn b s)))
    | _ => cases hf
  | control =>
    cases i with
    | controlByte b => exact .of_next h (.refl s)
    | _ => cases hf
  | bad =>
    cases i with
    | badByte b => exact .of_next h (.refl s)
    | _ => cases hf

/-! ### The step -/

/-- A step on an input event runs its operation. -/
theorem step_of_call {s : State} {k : Call} {rest : List Input} (hin : s.input = .call k :: rest) :
    step s = exec k.toInstr { s with input := rest } := by
  have hrest : requeue [] rest = rest := if_pos rfl
  rw [step_of_decoded (i := k.toInstr) (tail := []) hin rfl, hrest]

/-- A step on wire bytes runs a row of their format, or only rewrites the input (30_encoding.md R100). -/
theorem step_bytes_samePipeline {s t : State} {bs : List Byte} {rest : List Input} (hin : s.input = .bytes bs :: rest)
    (h : step s = .next t) : SamePipeline s t := by
  rcases step_cases h with ⟨-, rfl⟩ | ⟨k, rest', hin', -⟩ | ⟨bs', rest', f, i, tail, -, -, hd, hx⟩ | ⟨bs', rest', inp, -, rfl⟩
  · exact .refl _
  · rw [hin] at hin'; cases hin'
  · exact exec_wire_samePipeline (s := { s with input := requeue tail rest' }) (decodeBytes_format hd) hx
  · exact .refl _

/-- FeedByte stays within the pipeline (43_decode_pipeline.md R264). -/
theorem feedByte_sameBusSide (o : Oracles) (b : Byte) (s : State) : SameBusSide s (feedByte o b s) := by
  obtain ⟨d, f, e⟩ := feedByte_eq o b s
  rw [e]
  exact .refl s

/-! ### The obligation -/

/-- Settles O10: line calls, wire bytes, FeedByte and Produce in turn. -/
theorem busAndPipelineWriteApart : Obligations.BusAndPipelineWriteApart := by
  refine ⟨?_, ?_, ?_, ?_⟩
  · intro s t k rest hin hk h
    rw [step_of_call hin] at h
    exact exec_lineCall_samePipeline (s := { s with input := rest }) hk h
  · intro s t bs rest hin h
    exact step_bytes_samePipeline hin h
  · intro s t b rest hin h
    rw [step_of_call hin] at h
    cases h
    exact feedByte_sameBusSide _ b { s with input := rest }
  · intro s t n rest hin h
    rw [step_of_call hin] at h
    cases h
    exact (produce_frame _ n { s with input := rest }).bus

end Sys2Proof.Machine
end

section
/-! SUPPORT. FeedByte by its whole next state, also over a full ring (O48, O49), Fill by case (O50), and the block's oracles (O51). -/

namespace Sys2Proof.Machine

open Sys2Proof.Config

/-! ### FeedByte -/

theorem exec_feedByte (b : Byte) (s : State) : exec (.feedByte b) s = .next (feedByte (oracles s.cfg.sampleCap) b s) := rfl

/-- The frame flag after a byte is fed: the frame finder runs only while no frame is buffered (43_decode_pipeline.md R264). -/
def bufferedAfter (o : Oracles) (b : Byte) (s : State) : Bool :=
  if s.frameBuffered then true else frameComplete (o.findFrame (pushByte b s)) (pushByte b s).length

/-- FeedByte with the flag and the demand it answers (43_decode_pipeline.md R264 to R266). -/
theorem feedByte_result (o : Oracles) (b : Byte) (s : State) :
    let demand' := !bufferedAfter o b s || decide ((pushByte b s).length < s.cfg.ringCap)
    feedByte o b s = { s with
      ring := pushByte b s, frameBuffered := bufferedAfter o b s, demand := demand', trace := s.trace ++ [.demand demand'] } := by
  cases hf : s.frameBuffered <;> simp [feedByte, bufferedAfter, hf, detect, emitDemand, demandRule]

/-- On a full ring the oldest byte makes room (43_decode_pipeline.md R264). -/
theorem pushByte_full {s : State} (hfull : s.ring.length = s.cfg.ringCap) (b : Byte) : pushByte b s = s.ring.tail ++ [b] := by
  rw [pushByte, if_pos hfull, List.drop_one]

/-- A byte in place of the oldest one keeps the length of a ring that holds one. -/
theorem length_tail_append {ring : List Byte} (h : 1 ≤ ring.length) (b : Byte) : (ring.tail ++ [b]).length = ring.length := by
  rw [List.length_append, List.length_tail, List.length_singleton, Nat.sub_add_cancel h]

/-- With a frame buffered and the ring full a byte is kept in place of the oldest one, and demand goes low
(43_decode_pipeline.md R266, R280). -/
theorem feedByte_full (o : Oracles) {s : State} (hbuf : s.frameBuffered = true) (hfull : s.ring.length = s.cfg.ringCap)
    (hne : 1 ≤ s.ring.length) (b : Byte) :
    feedByte o b s = { s with ring := s.ring.tail ++ [b], demand := false, trace := s.trace ++ [.demand false] } := by
  have hflag : bufferedAfter o b s = s.frameBuffered := by rw [bufferedAfter, hbuf, if_pos rfl]
  have hdemand : (!s.frameBuffered || decide ((s.ring.tail ++ [b]).length < s.cfg.ringCap)) = false := by
    rw [length_tail_append hne, hfull, hbuf]; simp
  simp only [feedByte_result, hflag, pushByte_full hfull, hdemand]

/-- The newest bytes do not depend on the oldest one, which the first byte replaced. -/
theorem drop_tail_append {ring : List Byte} (h : 1 ≤ ring.length) (b : Byte) (bs : List Byte) :
    (ring.tail ++ b :: bs).drop bs.length = (ring ++ b :: bs).drop (bs.length + 1) := by
  cases ring with
  | nil => cases h
  | cons x xs => simp

/-- Any run of bytes into a full ring with a frame buffered, by induction on them: the newest bytes stand in the ring, the flag stays,
and each byte emits `Demand(0)` (43_decode_pipeline.md R280). -/
theorem runInstrs_feedBytes_full {s : State} (bs : List Byte) (hbuf : s.frameBuffered = true)
    (hfull : s.ring.length = s.cfg.ringCap) (hne : 1 ≤ s.ring.length) :
    runInstrs (bs.map Instr.feedByte) s = .next { s with
      ring := (s.ring ++ bs).drop bs.length, demand := if bs = [] then s.demand else false
      trace := s.trace ++ List.replicate bs.length (.demand false) } := by
  induction bs generalizing s with
  | nil => simp [runInstrs]
  | cons b bs ih =>
    have hlen := length_tail_append hne b
    have hrest := ih (s := { s with ring := s.ring.tail ++ [b], demand := false, trace := s.trace ++ [.demand false] })
      hbuf (hlen.trans hfull) (hne.trans_eq hlen.symm)
    rw [List.map_cons, runInstrs, exec_feedByte, feedByte_full _ hbuf hfull hne]
    refine hrest.trans ?_
    simp only [drop_tail_append hne, ite_self, List.cons_ne_nil, if_false, List.append_assoc, List.length_cons,
      List.replicate_succ, List.singleton_append]

/-- The capacity of the ring is at least 1 (00_scope.md R11). -/
theorem ringCap_pos_of_ok {c : Params} (hok : c.ok = true) : 1 ≤ c.ringCap := by
  simp only [Params.ok, Bool.and_eq_true, decide_eq_true_eq] at hok
  obtain ⟨-, hring, -⟩ := hok
  exact hring

/-! ### Fill -/

/-- Fill without a buffered frame (43_decode_pipeline.md R267). -/
theorem fill_noBuffer {o : Oracles} {s : State} (hbuf : s.frameBuffered = false) : fill o s = { s with
    frameSync := false, demand := true, trace := s.trace ++ [.frameSync false, .demand true] } := by
  rcases fill_cases o s with ⟨-, e⟩ | ⟨h, -⟩ | ⟨h, -⟩
  · exact e
  all_goals rw [hbuf] at h; cases h

/-- Fill on a decode failure (43_decode_pipeline.md R272). -/
theorem fill_failure {o : Oracles} {s : State} (hbuf : s.frameBuffered = true)
    (hfail : (o.decode s.decodeCalls s.ring).samples = []) : fill o s = { s with
      frameSync := false, trace := s.trace ++ [.frameSync false], decodeCalls := s.decodeCalls + 1
      ring := [], smp := [], smpRd := 0, frameBuffered := false, frameCounter := 0#32 } := by
  rcases fill_cases o s with ⟨h, -⟩ | ⟨-, -, e⟩ | ⟨-, h, -⟩
  · rw [hbuf] at h; cases h
  · exact e
  · exact absurd hfail h

/-- The state after a Fill that decoded `d` (43_decode_pipeline.md R270). -/
def decodedState (d : Decoded) (s : State) : State :=
  { s with
    trace := s.trace ++ [.frameSync false, .frameSync true, .demand true]
    frameSync := true, demand := true, decodeCalls := s.decodeCalls + 1
    smp := d.samples, smpRd := 0, ring := s.ring.drop d.consumed, outRate := d.rate
    frameCounter := s.frameCounter + 1#32, frameBuffered := false }

/-- Fill with a decoded frame (43_decode_pipeline.md R270). -/
theorem fill_decoded {o : Oracles} {s : State} {d : Decoded} (hbuf : s.frameBuffered = true)
    (hd : o.decode s.decodeCalls s.ring = d) (hne : d.samples ≠ []) : fill o s = decodedState d s := by
  subst hd
  rcases fill_cases o s with ⟨h, -⟩ | ⟨-, h, -⟩ | ⟨-, -, e⟩
  · rw [hbuf] at h; cases h
  · exact absurd h hne
  · exact e

/-! ### The obligations -/

/-- Settles O48: the ring, the flag and the demand of the fed byte, in the words of the spec. -/
theorem feedByteResult : Obligations.FeedByteResult := by
  intro s b ring' found buffered' demand'
  have hring : pushByte b s = ring' := by rw [pushByte, List.drop_one]
  have hflag : bufferedAfter (oracles s.cfg.sampleCap) b s = buffered' := by
    rw [bufferedAfter, hring, frameComplete, ← Bool.decide_and]; rfl
  have hdemand : (!buffered' || decide (ring'.length < s.cfg.ringCap)) = demand' := by simp [demand']
  rw [exec_feedByte, feedByte_result, hring, hflag, hdemand]

/-- Settles O49, from the run of bytes into the full ring. -/
theorem feedingAFullRingKeepsDemandLow : Obligations.FeedingAFullRingKeepsDemandLow := by
  intro s bs hok hbuf hfull hne
  exact ⟨_, runInstrs_feedBytes_full bs hbuf hfull (hfull ▸ ringCap_pos_of_ok hok), rfl, hbuf, if_neg hne, rfl⟩

/-- Settles O50, by the three cases of Fill. -/
theorem fillByCase : Obligations.FillByCase :=
  ⟨fun _ => rfl, fun _ _ => ⟨fill_noBuffer, fill_failure, fun _ => fill_decoded⟩⟩

/-- Settles O51: the decoder's bounds are in the types of its free values, and `Conv` is 0 at 0 by its definition. -/
theorem oraclesMeetTheirPreconditions : Obligations.OraclesMeetTheirPreconditions := by
  intro cap
  have hconv : freeConv 0#16 = 0 := if_pos rfl
  refine ⟨fun call bytes _ => ⟨?_, ?_⟩, hconv⟩
  · have hcount : (decodedCount call bytes cap).val ≤ cap := Nat.le_of_lt_succ (decodedCount call bytes cap).isLt
    simpa [oracles, freeDecode] using hcount
  · exact Nat.le_of_lt_succ (decodedConsumed call bytes).isLt

end Sys2Proof.Machine
end

section
/-! SUPPORT. Produce: its block (O52), its whole next state in every case of its Fills (O53, O54, O58), and how often it decodes
(O55, O57). -/

namespace Sys2Proof.Machine

open Sys2Proof.Config

/-! ### The block -/

/-- The row is the pull with the block's oracles and the block as the returned value. -/
theorem exec_produce (n : Nat) (s : State) : exec (.produce n) s = .next { (produce (oracles s.cfg.sampleCap) n s).2 with
    ret := .block (produce (oracles s.cfg.sampleCap) n s).1 } := rfl

/-- The block always holds as many pairs as were wanted (43_decode_pipeline.md R275). -/
theorem produce_length (o : Oracles) (n : Nat) (s : State) : (produce o n s).1.length = n := by
  induction n generalizing s with
  | zero => rfl
  | succ n ih =>
    cases h : (refill o s).smp[(refill o s).smpRd]? with
    | none => rw [produce_succ_none h, List.length_replicate]
    | some p => rw [produce_succ_some h, List.length_cons, ih]

/-! ### Pairs left in the buffer, then a Fill -/

/-- While the buffer holds enough pairs only the cursor moves (43_decode_pipeline.md R275). -/
theorem produce_drain (o : Oracles) {n : Nat} {s : State} (h : s.smpRd + n ≤ s.smp.length) :
    produce o n s = (((s.smp.drop s.smpRd).take n).map (outPair o), { s with smpRd := s.smpRd + n }) := by
  have hadd := produce_add o n 0 h
  rwa [produce_zero, List.append_nil, Nat.add_zero] at hadd

/-- The state with every pair of the buffer read. -/
def drained (s : State) : State := { s with smpRd := s.smp.length }

/-- When more pairs are wanted than are left, the rest of the block is that of the drained state. -/
theorem produce_beyond (o : Oracles) {n : Nat} {s : State} (hin : s.smpRd ≤ s.smp.length) (h : (s.smp.drop s.smpRd).length < n) :
    produce o n s = ((s.smp.drop s.smpRd).map (outPair o) ++ (produce o (n - (s.smp.drop s.smpRd).length) (drained s)).1,
      (produce o (n - (s.smp.drop s.smpRd).length) (drained s)).2) := by
  have hend : s.smpRd + (s.smp.drop s.smpRd).length = s.smp.length := by rw [List.length_drop, Nat.add_sub_cancel' hin]
  have hadd := produce_add o _ (n - (s.smp.drop s.smpRd).length) hend.le
  rwa [Nat.add_sub_cancel' h.le, List.take_length, hend] at hadd

/-- With the buffer exhausted before and after a Fill the block is silence (43_decode_pipeline.md R276). -/
theorem produce_silence {o : Oracles} {n : Nat} {s : State} (h : s.smpRd = s.smp.length) (hn : 0 < n)
    (hfill : (fill o s).smpRd = (fill o s).smp.length) : produce o n s = (List.replicate n silence, fill o s) := by
  obtain ⟨m, rfl⟩ := Nat.exists_eq_add_one_of_ne_zero hn.ne'
  rw [produce_succ_none (by rw [refill_exh h, hfill, List.getElem?_eq_none (Nat.le_refl _)]), refill_exh h]

/-- The buffer exhausted and no frame buffered (43_decode_pipeline.md R267, R276). -/
theorem produce_empty (o : Oracles) {n : Nat} {s : State} (h : s.smpRd = s.smp.length) (hbuf : s.frameBuffered = false) (hn : 0 < n) :
    produce o n s = (List.replicate n silence, { s with
      frameSync := false, demand := true, trace := s.trace ++ [.frameSync false, .demand true] }) := by
  rw [produce_silence h hn (by rw [fill_noBuffer hbuf]; exact h), fill_noBuffer hbuf]

/-- The buffer exhausted and a frame that fails to decode (43_decode_pipeline.md R272, R276). -/
theorem produce_failure {o : Oracles} {n : Nat} {s : State} (h : s.smpRd = s.smp.length) (hbuf : s.frameBuffered = true) (hn : 0 < n)
    (hfail : (o.decode s.decodeCalls s.ring).samples = []) :
    produce o n s = (List.replicate n silence, { s with
      frameSync := false, trace := s.trace ++ [.frameSync false], decodeCalls := s.decodeCalls + 1
      ring := [], smp := [], smpRd := 0, frameBuffered := false, frameCounter := 0#32 }) := by
  rw [produce_silence h hn (by rw [fill_failure hbuf hfail]; rfl), fill_failure hbuf hfail]

/-- The buffer exhausted and a frame that decodes: the block is that of the new buffer (43_decode_pipeline.md R270, R275). -/
theorem produce_decoded {o : Oracles} {n : Nat} {s : State} {d : Decoded} (h : s.smpRd = s.smp.length)
    (hbuf : s.frameBuffered = true) (hn : 0 < n) (hd : o.decode s.decodeCalls s.ring = d) (hne : d.samples ≠ []) :
    produce o n s = produce o n (decodedState d s) := by
  have hfill : fill o s = decodedState d s := fill_decoded hbuf hd hne
  have hpairs : (fill o s).smpRd ≠ (fill o s).smp.length := by
    rw [hfill]; exact (List.length_pos_of_ne_nil hne).ne
  rw [produce_fill h hn hpairs, hfill]

/-- The decoded frame has the pairs wanted. -/
theorem produce_decoded_enough {o : Oracles} {n : Nat} {s : State} {d : Decoded} (h : s.smpRd = s.smp.length)
    (hbuf : s.frameBuffered = true) (hn : 0 < n) (hd : o.decode s.decodeCalls s.ring = d) (hne : d.samples ≠ [])
    (henough : n ≤ d.samples.length) :
    produce o n s = ((d.samples.take n).map (outPair o), { decodedState d s with smpRd := n }) := by
  have hcursor : (decodedState d s).smpRd + n = n := Nat.zero_add n
  rw [produce_decoded h hbuf hn hd hne, produce_drain o (hcursor.trans_le henough), hcursor]
  rfl

/-- More pairs are wanted than the decoded frame has: the second Fill finds no frame (43_decode_pipeline.md R275, R276). -/
theorem produce_decoded_more {o : Oracles} {n : Nat} {s : State} {d : Decoded} (h : s.smpRd = s.smp.length)
    (hbuf : s.frameBuffered = true) (hd : o.decode s.decodeCalls s.ring = d) (hne : d.samples ≠ [])
    (hmore : d.samples.length < n) :
    produce o n s = (d.samples.map (outPair o) ++ List.replicate (n - d.samples.length) silence, { decodedState d s with
      smpRd := d.samples.length, frameSync := false, demand := true
      trace := s.trace ++ [.frameSync false, .frameSync true, .demand true, .frameSync false, .demand true] }) := by
  have hbuffer : (decodedState d s).smp.drop (decodedState d s).smpRd = d.samples := rfl
  rw [produce_decoded h hbuf (Nat.zero_lt_of_lt hmore) hd hne, produce_beyond o (Nat.zero_le _) hmore, hbuffer,
    produce_empty o (s := drained (decodedState d s)) rfl rfl (Nat.sub_pos_of_lt hmore)]
  simp only [drained, decodedState, List.append_assoc, List.cons_append, List.nil_append]

/-! ### How often Produce decodes -/

/-- What happened to the decoder between two states: `frames` many `FrameSync(1)` events, `calls` many decoder calls, and the
frame counter's value after them. -/
structure DecodeTally (s t : State) (frames calls : Nat) (counter : Quad) : Prop where
  trace : ∃ es, t.trace = s.trace ++ es ∧ framesIn es = frames
  calls : t.decodeCalls = s.decodeCalls + calls
  counter : t.frameCounter = counter

theorem framesIn_append (es fs : List OutEvent) : framesIn (es ++ fs) = framesIn es + framesIn fs := by
  simp only [framesIn, List.filter_append, List.length_append]

/-- Moving the cursor decodes nothing. -/
theorem DecodeTally.after_cursor {s t : State} {k frames calls : Nat} {counter : Quad}
    (h : DecodeTally { s with smpRd := k } t frames calls counter) : DecodeTally s t frames calls counter :=
  ⟨h.trace, h.calls, h.counter⟩

/-- Nothing was decoded. -/
theorem DecodeTally.idle (s : State) : DecodeTally s s 0 0 s.frameCounter := ⟨⟨[], (List.append_nil _).symm, rfl⟩, rfl, rfl⟩

/-- A part of the pull in which nothing is decoded adds nothing to the tally of the part before it. -/
theorem DecodeTally.then_idle {s t u : State} {frames calls : Nat} {counter : Quad} (h : DecodeTally s t frames calls counter)
    (k : DecodeTally t u 0 0 t.frameCounter) : DecodeTally s u frames calls counter := by
  obtain ⟨es, hes, hframes⟩ := h.trace
  obtain ⟨fs, hfs, hnone⟩ := k.trace
  refine ⟨⟨es ++ fs, by rw [hfs, hes, List.append_assoc], ?_⟩, k.calls.trans h.calls, k.counter.trans h.counter⟩
  rw [framesIn_append, hframes, hnone, Nat.add_zero]

/-- Without a buffered frame a Fill decodes nothing (43_decode_pipeline.md R267). -/
theorem refill_idle (o : Oracles) {s : State} (hbuf : s.frameBuffered = false) :
    DecodeTally s (refill o s) 0 0 s.frameCounter ∧ (refill o s).frameBuffered = false := by
  unfold refill
  split
  · rw [fill_noBuffer hbuf]; exact ⟨⟨⟨_, rfl, rfl⟩, rfl, rfl⟩, hbuf⟩
  · exact ⟨.idle s, hbuf⟩

/-- Without a buffered frame Produce decodes nothing, by induction on the pairs wanted. -/
theorem produce_idle (o : Oracles) (n : Nat) {s : State} (hbuf : s.frameBuffered = false) :
    DecodeTally s (produce o n s).2 0 0 s.frameCounter := by
  induction n generalizing s with
  | zero => exact .idle s
  | succ n ih =>
    obtain ⟨hidle, hbuf'⟩ := refill_idle o hbuf
    cases h : (refill o s).smp[(refill o s).smpRd]? with
    | none => rw [produce_succ_none h]; exact hidle
    | some p =>
      rw [produce_succ_some h]
      exact hidle.then_idle (ih (s := { refill o s with smpRd := (refill o s).smpRd + 1 }) hbuf').after_cursor

/-- Nothing decoded, one frame decoded and counted, or one failure, which clears the counter (43_decode_pipeline.md R279). -/
def DecodesAtMostOnce (s t : State) : Prop :=
  DecodeTally s t 0 0 s.frameCounter ∨ DecodeTally s t 1 1 (s.frameCounter + 1#32) ∨ DecodeTally s t 0 1 0#32

theorem DecodesAtMostOnce.then_idle {s t u : State} (h : DecodesAtMostOnce s t) (k : DecodeTally t u 0 0 t.frameCounter) :
    DecodesAtMostOnce s u :=
  h.imp (·.then_idle k) (.imp (·.then_idle k) (·.then_idle k))

theorem DecodesAtMostOnce.after_cursor {s t : State} {k : Nat} (h : DecodesAtMostOnce { s with smpRd := k } t) :
    DecodesAtMostOnce s t :=
  h.imp (·.after_cursor) (.imp (·.after_cursor) (·.after_cursor))

/-- One Fill decodes at most once (43_decode_pipeline.md R267 to R272). -/
theorem fill_decodesAtMostOnce (o : Oracles) (s : State) : DecodesAtMostOnce s (fill o s) := by
  rcases fill_cases o s with ⟨-, e⟩ | ⟨-, -, e⟩ | ⟨-, -, e⟩ <;> rw [e]
  · exact .inl ⟨⟨_, rfl, rfl⟩, rfl, rfl⟩
  · exact .inr (.inr ⟨⟨_, rfl, rfl⟩, rfl, rfl⟩)
  · exact .inr (.inl ⟨⟨_, rfl, rfl⟩, rfl, rfl⟩)

/-- Produce decodes at most once, by induction on the pairs wanted: after a Fill no frame is buffered (43_decode_pipeline.md R275). -/
theorem produce_decodesAtMostOnce (o : Oracles) (n : Nat) (s : State) : DecodesAtMostOnce s (produce o n s).2 := by
  induction n generalizing s with
  | zero => exact .inl (.idle s)
  | succ n ih =>
    cases h : (refill o s).smp[(refill o s).smpRd]? with
    | none =>
      rw [produce_succ_none h]
      unfold refill
      split
      · exact fill_decodesAtMostOnce o s
      · exact .inl (.idle s)
    | some p =>
      rw [produce_succ_some h]
      by_cases hexh : s.smpRd = s.smp.length
      · rw [refill_exh hexh]
        have hidle := produce_idle o n (s := { fill o s with smpRd := (fill o s).smpRd + 1 }) (fill_noFrame o s)
        exact (fill_decodesAtMostOnce o s).then_idle hidle.after_cursor
      · rw [refill_not hexh]
        exact (ih { s with smpRd := s.smpRd + 1 }).after_cursor

/-! ### The obligations -/

/-- Settles O52, with the length of the block by induction on the pairs wanted. -/
theorem produceReturnsExactlyTheBlock : Obligations.ProduceReturnsExactlyTheBlock :=
  fun s n => ⟨exec_produce n s, produce_length _ n s, rfl⟩

/-- Settles O53: the pull of pairs that are all in the buffer. -/
theorem produceDrainsTheBuffer : Obligations.ProduceDrainsTheBuffer := by
  intro s n h
  rw [exec_produce, produce_drain _ h]
  rfl

/-- Settles O54: the pull of an empty pipeline. -/
theorem produceOfAnEmptyPipelineIsSilence : Obligations.ProduceOfAnEmptyPipelineIsSilence := by
  intro s n h hbuf hn
  rw [exec_produce, produce_empty _ h hbuf hn]
  rfl

/-- Settles O55, by the three tallies of a Produce. -/
theorem produceDecodesAtMostOneFrame : Obligations.ProduceDecodesAtMostOneFrame := by
  intro o s n
  rcases produce_decodesAtMostOnce o n s with h | h | h
  all_goals
    obtain ⟨es, hes, hframes⟩ := h.trace
    have hcalls := h.calls
    exact ⟨by omega, es, hes, by omega⟩

/-- Settles O57, by the three tallies of a Produce: only a failure has a decoder call without its event. -/
theorem frameCounterCountsFrameSyncs : Obligations.FrameCounterCountsFrameSyncs := by
  intro o s n
  rcases produce_decodesAtMostOnce o n s with h | h | h
  all_goals
    obtain ⟨es, hes, hframes⟩ := h.trace
    refine ⟨es, hes, ?_⟩
    rw [h.calls, h.counter, hframes]
  · exact ⟨fun _ => (BitVec.add_zero _).symm, fun hne => absurd rfl hne⟩
  · exact ⟨fun _ => rfl, fun hne => absurd rfl hne⟩
  · exact ⟨fun heq => absurd heq (by omega), fun _ => rfl⟩

/-- Settles O58: the pairs left, then by the case of the Fill on the drained state. -/
theorem produceByCase : Obligations.ProduceByCase := by
  refine ⟨fun s n => exec_produce n s, ?_⟩
  intro o s n hin out left
  have hleft : left.length = s.smp.length - s.smpRd := List.length_drop
  refine ⟨fun h => ?_, fun h hbuf => ?_, fun h hbuf hfail => ?_, fun d h hbuf hd hne => ⟨fun henough => ?_, fun hmore => ?_⟩⟩
  · exact produce_drain o (by omega)
  · rw [produce_beyond o hin h, produce_empty o (s := drained s) rfl hbuf (Nat.sub_pos_of_lt h)]
    rfl
  · rw [produce_beyond o hin h, produce_failure (s := drained s) rfl hbuf (Nat.sub_pos_of_lt h) hfail]
    rfl
  · rw [produce_beyond o hin h,
      produce_decoded_enough (s := drained s) rfl hbuf (Nat.sub_pos_of_lt h) hd hne (Nat.sub_le_iff_le_add'.mpr henough)]
    exact Prod.ext List.map_append.symm rfl
  · have hrest : d.samples.length < n - left.length := Nat.lt_sub_iff_add_lt'.mpr hmore
    rw [produce_beyond o hin h, produce_decoded_more (s := drained s) rfl hbuf hd hne hrest]
    have hblock : left.map (outPair o) ++ (d.samples.map (outPair o) ++ List.replicate (n - left.length - d.samples.length) silence) =
        out (left ++ d.samples) ++ List.replicate (n - (left.length + d.samples.length)) silence := by
      rw [Nat.sub_add_eq, ← List.append_assoc, ← List.map_append]
      rfl
    exact Prod.ext hblock rfl

end Sys2Proof.Machine
end

section
/-! SUPPORT. The invariant of every step (O6), and a decode failure inside Produce (O56). The invariant is taken apart into what
the session, the gains and the buffers each need. An input event keeps every part; a row with wire bytes is the line calls of its
encoding (O14), so that it keeps the invariant too. -/

namespace Sys2Proof.Machine

open Sys2Proof.Config

/-! ### The parts of the invariant -/

/-- What the session registers hold in each bus state (10_state.md R27, R28; 40_bus_protocol.md R142, R147, R150). -/
def SessionAt (s : State) : BusState → Prop
  | .idle => s.bitIdx = some 7 ∧ s.acc = 0#8 ∧ s.addrStatus = .unresolved ∧ s.subdest = .undefined ∧ s.pos = 0 ∧ s.cmd = .bad
  | .started => s.addrStatus ≠ .invalid ∧ ∃ i, s.bitIdx = some i ∧ ∀ j : Nat, j ≤ i.val → s.acc.getLsbD j = false
  | .ack => s.addrStatus = .valid ∧ s.bitIdx = none
  | .ack2 => s.addrStatus = .valid ∧ s.bitIdx = none ∧ s.sclIn = true
  | .nak => s.bitIdx = none

/-- `POS` is 0, 1 or 2 in `data-read` (20_memory.md R75). -/
def ReadPosBounded (s : State) : Prop := s.subdest = .dataRead → s.pos ≤ 2

/-- The session registers fit the bus state. -/
def SessionFits (s : State) : Prop := SessionAt s s.busState ∧ ReadPosBounded s

/-- The output gains follow the mute flag, and the gains are in range (10_state.md R44, R50). -/
def GainsFollow (s : State) : Prop :=
  s.outGainL = (if s.muted then GainVal.zero else s.gainLL) ∧ s.outGainR = (if s.muted then GainVal.zero else s.gainRR) ∧
  s.gainLL.inRange = true ∧ s.gainRR.inRange = true

theorem SessionFits.sessionAt {s : State} (h : SessionFits s) {b : BusState} (hb : s.busState = b) : SessionAt s b := hb ▸ h.1

theorem SessionFits.of_at {s : State} {b : BusState} (hb : s.busState = b) (h : SessionAt s b) (hpos : ReadPosBounded s) :
    SessionFits s := ⟨hb ▸ h, hpos⟩

theorem Inv.session {s : State} (h : Inv s) : SessionFits s := by
  refine ⟨?_, h.read_pos⟩
  cases hb : s.busState with
  | idle => exact h.idle_clear hb
  | started => exact h.started_index hb
  | ack => exact h.ack_valid (.inl hb)
  | ack2 =>
    obtain ⟨ha, hidx⟩ := h.ack_valid (.inr hb)
    exact ⟨ha, hidx, h.ack2_clock hb⟩
  | nak => exact h.nak_index hb

theorem Inv.gains {s : State} (h : Inv s) : GainsFollow s := ⟨h.out_gain_left, h.out_gain_right, h.gain_range⟩

theorem Inv.fits {s : State} (h : Inv s) : Fits s := ⟨h.ring_fits, h.samples_fit, h.cursor_inside⟩

/-- An invalid address stands in `Nak` only (10_state.md R28). -/
theorem SessionFits.nak_of_invalid {s : State} (h : SessionFits s) (ha : s.addrStatus = .invalid) : s.busState = .nak := by
  cases hb : s.busState with
  | idle =>
    obtain ⟨-, -, hunresolved, -⟩ := h.sessionAt hb
    rw [hunresolved] at ha; cases ha
  | started =>
    obtain ⟨hvalid, -⟩ := h.sessionAt hb
    exact absurd ha hvalid
  | ack | ack2 =>
    obtain ⟨hvalid, -⟩ := h.sessionAt hb
    rw [hvalid] at ha; cases ha
  | nak => rfl

/-- The invariant from its parts. -/
theorem Inv.of_parts {s : State} (hok : s.cfg.ok = true) (hclock : s.sclOut = true) (hs : SessionFits s) (hg : GainsFollow s)
    (hf : Fits s) : Inv s := by
  obtain ⟨hleft, hright, hrange⟩ := hg
  refine ⟨hok, hclock, hs.sessionAt, hs.sessionAt, ?_, ?_, hs.sessionAt, hs.nak_of_invalid, hs.2, hleft, hright, hrange,
    hf.ring_fits, hf.samples_fit, hf.cursor_inside⟩
  · rintro (hb | hb)
    · exact hs.sessionAt hb
    · obtain ⟨ha, hidx, -⟩ := hs.sessionAt hb
      exact ⟨ha, hidx⟩
  · intro hb
    obtain ⟨-, -, hc⟩ := hs.sessionAt hb
    exact hc

/-- After an operation, parameters and clock output need no proof: its frame has them. -/
theorem Inv.of_exec {i : Instr} {s t : State} (h : Inv s) (hx : exec i s = .next t) (hs : SessionFits t) (hg : GainsFollow t)
    (hf : Fits t) : Inv t := by
  have frame := exec_stepFrame hx
  exact .of_parts (frame.cfg ▸ h.cfg_ok) (frame.clock_released h.clock_released) hs hg hf

/-- The input is no part of the invariant. -/
theorem Inv.with_input {s : State} (h : Inv s) (input : List Input) : Inv { s with input := input } :=
  .of_parts h.cfg_ok h.clock_released h.session h.gains ⟨h.ring_fits, h.samples_fit, h.cursor_inside⟩

/-! ### The gains -/

/-- A register write: the mute sets or clears the outputs, the other registers leave them (42_dispatch_gain_mute.md R237). -/
theorem GainsFollow.regWrite {s : State} (h : GainsFollow s) (a : BitVec 8) (v : Half) : GainsFollow (regWrite a v s) := by
  obtain ⟨hleft, hright, hrange⟩ := h
  rw [regWrite_eq]
  by_cases ha : a = s.cfg.regMute
  · exact ⟨by simp [ha], by simp [ha], hrange⟩
  · exact ⟨by simp [ha, hleft], by simp [ha, hright], hrange⟩

/-- A memory write: a channel's gain and, unless muted, its output move together (42_dispatch_gain_mute.md R234, R235). -/
theorem GainsFollow.memWrite {s : State} (h : GainsFollow s) (bank : Bool) (a : Half) (v : MemWord) :
    GainsFollow (memWrite bank a v s) := by
  obtain ⟨hleft, hright, hrangeL, hrangeR⟩ := h
  unfold Machine.memWrite
  dsimp only
  split
  · refine ⟨?_, hright, gainOf_inRange v, hrangeR⟩
    cases hm : s.muted <;> simp [hm, hleft]
  split
  · refine ⟨hleft, ?_, hrangeL, gainOf_inRange v⟩
    cases hm : s.muted <;> simp [hm, hright]
  · exact ⟨hleft, hright, hrangeL, hrangeR⟩

/-- The fourth byte of write-register dispatches, the others assemble (41_command_interpreter.md R190). -/
theorem GainsFollow.writeRegisterByte {b : Byte} {s t : State} (h : GainsFollow s) (hb : writeRegisterByte b s = some t) :
    GainsFollow t := by
  unfold Machine.writeRegisterByte at hb
  split at hb <;> cases hb
  case h_4 => exact GainsFollow.regWrite (s := { s with val := withValLow s.val b }) h _ _
  all_goals exact h

/-- The third byte of a memory word dispatches, the others assemble (41_command_interpreter.md R192). -/
theorem GainsFollow.memoryWordByte {k : Nat} {b : Byte} {s t : State} (h : GainsFollow s) (hb : memoryWordByte k b s = some t) :
    GainsFollow t := by
  unfold Machine.memoryWordByte at hb
  split at hb
  · cases hb
  split at hb <;> cases hb
  case h_3 => exact GainsFollow.memWrite (s := { s with val := withValTop s.val b }) h _ _ _
  all_goals exact h

/-- The header of write-memory writes no gain (41_command_interpreter.md R192). -/
theorem GainsFollow.writeMemoryByte {b : Byte} {s t : State} (h : GainsFollow s) (hb : writeMemoryByte b s = some t) :
    GainsFollow t := by
  unfold Machine.writeMemoryByte at hb
  split at hb
  case h_6 => exact h.memoryWordByte hb
  all_goals cases hb; exact h

/-- A command byte writes gains by the two write commands only (41_command_interpreter.md R187). -/
theorem GainsFollow.commandByte {b : Byte} {s t : State} (h : GainsFollow s) (hb : commandByte b s = some t) : GainsFollow t := by
  unfold Machine.commandByte runByte readControlByte readRegisterByte readMemoryByte at hb
  split at hb
  case h_3 => exact h.writeRegisterByte hb
  case h_4 => exact h.writeMemoryByte hb
  case h_7 => cases hb; exact h
  all_goals split at hb <;> cases hb <;> exact h

theorem GainsFollow.operand {s : State} (h : GainsFollow s) (b : Byte) : GainsFollow (operand b s) := by
  rcases operand_cases b s with ⟨t, ht, e, -⟩ | ⟨-, e⟩ <;> rw [e]
  · have hgains : GainsFollow t := h.commandByte ht
    exact hgains
  · exact h

/-- A completed data byte, by its sub-destination (41_command_interpreter.md R180). -/
theorem GainsFollow.interpret {s : State} (h : GainsFollow s) (b : Byte) : GainsFollow (interpret b s) := by
  cases hd : s.subdest with
  | undefined =>
    rw [interpret_undefined hd]
    unfold select
    repeat' split
    all_goals exact h
  | control => rw [interpret_control hd]; exact h
  | bad => rw [interpret_bad hd]; exact h
  | dataRead =>
    rw [interpret_dataRead hd]
    unfold dataRead
    split <;> exact h
  | dataWrite =>
    rw [interpret_dataWrite hd]
    unfold dataWrite
    split
    · exact GainsFollow.operand (s := { s with cmd := pendingCommand b }) h b
    · exact h.operand b

theorem GainsFollow.byteComplete {s : State} (h : GainsFollow s) : GainsFollow (byteComplete s) := by
  cases ha : s.addrStatus with
  | unresolved =>
    rw [byteComplete_unresolved ha]
    unfold addressByte
    split <;> exact h
  | valid => rw [byteComplete_valid ha]; exact GainsFollow.interpret (s := acknowledge s) h s.acc
  | invalid => unfold Machine.byteComplete; rw [ha]; exact h

/-- The four calls of the bus master: gains move only where a bit cell completes a byte. -/
theorem GainsFollow.exec_lineCall {k : Call} {s t : State} (h : GainsFollow s) (hk : isLineCall k = true)
    (hx : exec k.toInstr s = .next t) : GainsFollow t := by
  cases k with
  | setClock l =>
    obtain hcell | ⟨bus, idx, acc, rfl⟩ := execSetClock_cases hx
    · obtain ⟨acc, sda, idx, rfl | rfl⟩ := bitCell_cases hcell
      · exact h
      · exact GainsFollow.byteComplete (s := { s with sclIn := true, acc := acc, sdaOut := sda, bitIdx := idx }) h
    · exact h
  | setData l => obtain rfl | rfl | rfl := execSetData_cases hx <;> exact h
  | readClock | readData => cases hx; exact h
  | feedByte | produce | reset => cases hk

/-! ### The session -/

/-- The clock level matters in `Ack2` only (40_bus_protocol.md R142). -/
theorem SessionFits.with_clock {s : State} (h : SessionFits s) {l : Bool} (hl : s.busState = .ack2 → l = true) :
    SessionFits { s with sclIn := l } := by
  cases hb : s.busState with
  | ack2 =>
    obtain ⟨ha, hidx, -⟩ := h.sessionAt hb
    exact ⟨⟨ha, hidx, hl hb⟩, h.2⟩
  | idle | started | ack | nak => exact ⟨h.sessionAt hb, h.2⟩

/-- `POS` counts at most two read groups, and every way into `data-read` clears it (41_command_interpreter.md R181, R184). -/
theorem ReadPosBounded.interpret {s : State} (h : ReadPosBounded s) (b : Byte) : ReadPosBounded (interpret b s) := by
  cases hd : s.subdest with
  | undefined =>
    rw [interpret_undefined hd]
    unfold select
    repeat' split
    all_goals exact fun _ => Nat.zero_le 2
  | control => rw [interpret_control hd]; exact h
  | bad => rw [interpret_bad hd]; exact h
  | dataRead =>
    rw [interpret_dataRead hd]
    by_cases hpos : s.pos < 2
    · rw [dataRead_counted hpos]; exact fun _ => hpos
    · rw [dataRead_overrun (by omega)]; exact h
  | dataWrite =>
    intro hread
    rw [interpret_dataWrite hd, dataWrite_subdest b hd] at hread
    cases hread

theorem ReadPosBounded.byteComplete {s : State} (h : ReadPosBounded s) : ReadPosBounded (byteComplete s) := by
  cases ha : s.addrStatus with
  | unresolved =>
    rw [byteComplete_unresolved ha]
    unfold addressByte
    split
    · exact fun _ => Nat.zero_le 2
    · exact h
  | valid => rw [byteComplete_valid ha]; exact ReadPosBounded.interpret (s := acknowledge s) h s.acc
  | invalid => unfold Machine.byteComplete; rw [ha]; exact h

/-- Completing a byte with every bit sampled ends in `Ack` with a valid address, or in `Nak` (40_bus_protocol.md R152 to R154). -/
theorem SessionFits.of_byteComplete {s : State} (ha : s.addrStatus ≠ .invalid) (hidx : s.bitIdx = none)
    (hpos : ReadPosBounded s) : SessionFits (byteComplete s) := by
  have hsettled := byteComplete_bus ha
  have hidx' : (byteComplete s).bitIdx = none := (byteComplete_frame s).bitIdx.trans hidx
  rcases hsettled.bus with hack | hnak
  · exact .of_at hack ⟨hsettled.ack hack, hidx'⟩ hpos.byteComplete
  · exact .of_at hnak hidx' hpos.byteComplete

/-- Sampling bit `i` leaves the bits below it as they are (40_bus_protocol.md R150). -/
theorem setBit_below {acc : Byte} {i : Fin 8} (v : Bool) {j : Nat} (hj : j < i.val) :
    (setBit acc i v).getLsbD j = acc.getLsbD j := by
  rw [setBit_bit acc i v j (by omega), if_neg (by omega)]

/-- A bit cell in `Started` answers, since there is a bit index (10_state.md R27, 40_bus_protocol.md R150 to R152). -/
theorem SessionFits.bitCell {s : State} (h : SessionFits s) (hb : s.busState = .started) :
    ∃ t, bitCell s = .next t ∧ SessionFits t := by
  obtain ⟨ha, i, hidx, hunsampled⟩ := h.sessionAt hb
  by_cases hi : i.val = 0
  · obtain rfl : i = 0 := Fin.ext hi
    exact ⟨_, bitCell_last hidx, .of_byteComplete (s := sampleBit 0 s) ha rfl h.2⟩
  · have hpos : 0 < i.val := Nat.pos_of_ne_zero hi
    refine ⟨_, bitCell_sample hidx hpos, .of_at (b := .started) hb ⟨ha, _, prevBitIdx_pos hpos, fun j hj => ?_⟩ h.2⟩
    have hji : j < i.val := by have : j ≤ i.val - 1 := hj; omega
    exact (setBit_below s.sdaIn hji).trans (hunsampled j hji.le)

/-- A clock call: no edge, a rise, a fall (40_bus_protocol.md R142, R155, R157). -/
theorem SessionFits.setClock {s : State} (h : SessionFits s) (l : Bool) :
    ∃ t, execSetClock l s = .next t ∧ SessionFits t := by
  by_cases hsame : l = s.sclIn
  · subst hsame
    exact ⟨s, setClock_same s, h⟩
  cases l with
  | true =>
    have hlow : s.sclIn = false := by simpa using Ne.symm hsame
    have hrise : SessionFits { s with sclIn := true } := h.with_clock fun _ => rfl
    by_cases hstarted : s.busState = .started
    · rw [setClock_rise_started hlow hstarted]
      exact hrise.bitCell hstarted
    refine ⟨_, setClock_rise_ackRise hlow hstarted, ?_⟩
    by_cases hack : s.busState = .ack
    · obtain ⟨ha, hidx⟩ := h.sessionAt hack
      rw [ackRise_ack (s := { s with sclIn := true }) hack]
      exact ⟨⟨ha, hidx, rfl⟩, h.2⟩
    · rw [ackRise_other (s := { s with sclIn := true }) hack]
      exact hrise
  | false =>
    have hhigh : s.sclIn = true := by simpa using Ne.symm hsame
    by_cases hack2 : s.busState = .ack2
    · obtain ⟨ha, -⟩ := h.sessionAt hack2
      refine ⟨_, setClock_fall_ack2 hhigh hack2, ⟨?_, 7, rfl, fun j _ => BitVec.getLsbD_zero⟩, h.2⟩
      simp [ha]
    · exact ⟨_, setClock_low hack2, h.with_clock fun h2 => absurd h2 hack2⟩

/-- A data call always answers (40_bus_protocol.md R143). -/
theorem exists_execSetData (l : Bool) (s : State) : ∃ t, execSetData l s = .next t := by
  unfold execSetData
  repeat' split
  all_goals exact ⟨_, rfl⟩

/-- A data call: a level, a STOP, a START (40_bus_protocol.md R143, R146, R147). -/
theorem SessionFits.of_setData {l : Bool} {s t : State} (h : SessionFits s) (hx : execSetData l s = .next t) : SessionFits t := by
  obtain rfl | rfl | rfl := execSetData_cases hx
  · exact h
  · exact ⟨⟨rfl, rfl, rfl, rfl, rfl, rfl⟩, fun _ => Nat.zero_le 2⟩
  · exact ⟨⟨by simp, 7, rfl, fun j _ => BitVec.getLsbD_zero⟩, h.2⟩

/-- The pipeline leaves the session (43_decode_pipeline.md R260). -/
theorem SessionFits.of_sameBusSide {s t : State} (h : SessionFits s) (k : SameBusSide s t) : SessionFits t := by
  obtain ⟨hclock, -, -, -, hbus, hacc, hidx, haddr, hsub, hpos, hcmd, -⟩ := k
  unfold SessionFits SessionAt ReadPosBounded
  rw [hclock, hbus, hacc, hidx, haddr, hsub, hpos, hcmd]
  exact h

/-- The pipeline leaves the gains (43_decode_pipeline.md R260). -/
theorem GainsFollow.of_sameBusSide {s t : State} (h : GainsFollow s) (k : SameBusSide s t) : GainsFollow t := by
  obtain ⟨-, -, -, -, -, -, -, -, -, -, -, -, -, -, -, -, hleft, hright, hmuted, houtL, houtR⟩ := k
  unfold GainsFollow
  rw [hleft, hright, hmuted, houtL, houtR]
  exact h

/-! ### The buffers -/

/-- The bus side leaves the buffers (43_decode_pipeline.md R260). -/
theorem Fits.of_samePipeline {s t : State} (h : Fits s) (k : SamePipeline s t) (hcfg : t.cfg = s.cfg) : Fits t := by
  obtain ⟨-, hring, -, hsmp, hcursor, -⟩ := k
  exact ⟨by rw [hring, hcfg]; exact h.ring_fits, by rw [hsmp, hcfg]; exact h.samples_fit,
    by rw [hsmp, hcursor]; exact h.cursor_inside⟩

/-- A byte fed into the ring (43_decode_pipeline.md R264). -/
theorem Fits.feedByte {s : State} (h : Fits s) (hok : s.cfg.ok = true) (o : Oracles) (b : Byte) : Fits (feedByte o b s) := by
  obtain ⟨d, f, e⟩ := feedByte_eq o b s
  rw [e]
  exact ⟨pushByte_length b h.ring_fits (ringCap_pos_of_ok hok), h.samples_fit, h.cursor_inside⟩

/-- A pull, by induction on the pairs wanted: the cursor moves past a pair that is there (43_decode_pipeline.md R275). -/
theorem Fits.produce {o : Oracles} {s : State} (h : Fits s) (ho : o.Meets s.cfg.sampleCap) (n : Nat) : Fits (produce o n s).2 := by
  induction n generalizing s with
  | zero => exact h
  | succ n ih =>
    have hfill : Fits (Machine.refill o s) := h.refill ho
    cases hp : (Machine.refill o s).smp[(Machine.refill o s).smpRd]? with
    | none => rw [produce_succ_none hp]; exact hfill
    | some p =>
      obtain ⟨hlt, -⟩ := List.getElem?_eq_some_iff.mp hp
      rw [produce_succ_some hp]
      refine ih (s := { Machine.refill o s with smpRd := (Machine.refill o s).smpRd + 1 })
        ⟨hfill.ring_fits, hfill.samples_fit, hlt⟩ ?_
      rw [(refill_frame o s).cfg]
      exact ho

/-! ### Input events -/

/-- The reset state of an admissible block (70_reset_and_hazards.md R340). -/
theorem inv_deviceReset {s : State} (hok : s.cfg.ok = true) : Inv (deviceReset s) :=
  .of_parts hok rfl ⟨⟨rfl, rfl, rfl, rfl, rfl, rfl⟩, fun _ => Nat.zero_le 2⟩ ⟨rfl, rfl, rfl, rfl⟩
    ⟨Nat.zero_le _, Nat.zero_le _, Nat.le_refl _⟩

/-- The calls of the bus master answer and keep the session. -/
theorem SessionFits.exec_lineCall {k : Call} {s : State} (h : SessionFits s) (hk : isLineCall k = true) :
    ∃ t, exec k.toInstr s = .next t ∧ SessionFits t := by
  cases k with
  | setClock l => exact h.setClock l
  | setData l =>
    obtain ⟨t, hx⟩ := exists_execSetData l s
    exact ⟨t, hx, h.of_setData hx⟩
  | readClock | readData => exact ⟨_, rfl, h⟩
  | feedByte | produce | reset => cases hk

/-- The calls of the bus master: session and gains by their own lemmas, the buffers are left. -/
theorem Inv.exec_lineCall {k : Call} {s : State} (h : Inv s) (hk : isLineCall k = true) :
    ∃ t, exec k.toInstr s = .next t ∧ Inv t := by
  obtain ⟨t, hx, hs⟩ := h.session.exec_lineCall hk
  exact ⟨t, hx, h.of_exec hx hs (h.gains.exec_lineCall hk hx)
    (h.fits.of_samePipeline (exec_lineCall_samePipeline hk hx) (exec_stepFrame hx).cfg)⟩

/-- Every input event of 00_scope.md R8 answers and keeps the invariant. -/
theorem Inv.exec_call {s : State} (h : Inv s) (k : Call) : ∃ t, exec k.toInstr s = .next t ∧ Inv t := by
  cases k with
  | setClock | setData | readClock | readData => exact h.exec_lineCall rfl
  | feedByte b =>
    have hbus := feedByte_sameBusSide (oracles s.cfg.sampleCap) b s
    exact ⟨_, rfl, h.of_exec (i := .feedByte b) rfl (h.session.of_sameBusSide hbus) (h.gains.of_sameBusSide hbus)
      (h.fits.feedByte h.cfg_ok _ b)⟩
  | produce n =>
    have hbus := (produce_frame (oracles s.cfg.sampleCap) n s).bus
    have hfits := h.fits.produce (oraclesMeetTheirPreconditions s.cfg.sampleCap) n
    exact ⟨_, rfl, h.of_exec (i := .produce n) rfl (h.session.of_sameBusSide hbus) (h.gains.of_sameBusSide hbus)
      ⟨hfits.ring_fits, hfits.samples_fit, hfits.cursor_inside⟩⟩
  | reset => exact ⟨_, rfl, inv_deviceReset h.cfg_ok⟩

/-! ### Runs, rows and steps -/

/-- A run of input events, by induction on them. -/
theorem Inv.runCalls {s : State} (h : Inv s) (ks : List Call) : ∃ t, runCalls ks s = .next t ∧ Inv t := by
  induction ks generalizing s with
  | nil => exact ⟨s, rfl, h⟩
  | cons k ks ih =>
    obtain ⟨t, hx, ht⟩ := h.exec_call k
    rw [runCalls_cons_next hx]
    exact ih ht

/-- Wire bytes as their line calls, by induction on the bytes (30_encoding.md R130). -/
theorem Inv.runWire {s : State} (h : Inv s) (bs : List Byte) : ∃ t, runWire bs s = .next t ∧ Inv t := by
  induction bs generalizing s with
  | nil => exact ⟨s, rfl, h⟩
  | cons b bs ih =>
    obtain ⟨t, hx, ht⟩ := h.runCalls (wireCalls s b)
    rw [runWire_cons_next hx]
    exact ih ht

/-- A row read from wire bytes is the run of their line calls (30_encoding.md R100), and so keeps the invariant. -/
theorem Inv.exec_row {s : State} {f : ByteFormat} {i : Instr} {bs tail : List Byte} (h : Inv s) (hf : byteFormat s = some f)
    (hd : decodeBytes s.cfg f bs = .ok (i, tail)) : ∃ t, exec i s = .next t ∧ Inv t := by
  obtain ⟨hwf, -⟩ := decodeBytes_inverse hd
  rw [← clockedEncodingRunsTheOperation s i f hwf (decodeBytes_format hd) hf]
  exact h.runWire _

/-- Wire bytes are read at the session's format (30_encoding.md R103). -/
theorem decodeInput_bytes_ok {c : Params} {format : Option ByteFormat} {bs tail : List Byte} {i : Instr}
    (hd : decodeInput c format (.bytes bs) = .ok (i, tail)) : ∃ f, format = some f ∧ decodeBytes c f bs = .ok (i, tail) := by
  cases format with
  | none => cases hd
  | some f => exact ⟨f, rfl, hd⟩

/-- An expansion writes the input only (30_encoding.md R100). -/
theorem expandInput_eq (item : Input) (rest : List Input) (s : State) :
    ∃ input, expandInput item rest s = { s with input := input } := by
  cases item with
  | call k => exact ⟨_, rfl⟩
  | bytes bs => cases bs with
    | nil | cons => exact ⟨_, rfl⟩

/-! ### The obligations -/

/-- Settles O6, by the next input item: nothing, an input event, a row of wire bytes, a byte that becomes its line calls. -/
theorem stepKeepsTheInvariant : Obligations.StepKeepsTheInvariant := by
  intro s h
  cases hin : s.input with
  | nil => exact ⟨s, step_of_input_nil hin, h⟩
  | cons item rest =>
    cases hd : decodeInput s.cfg (byteFormat s) item with
    | error e =>
      obtain ⟨input, hexp⟩ := expandInput_eq item rest s
      rw [step_of_undecoded hin hd, hexp]
      exact ⟨_, rfl, h.with_input input⟩
    | ok r =>
      obtain ⟨i, tail⟩ := r
      rw [step_of_decoded hin hd]
      cases item with
      | call k => cases hd; exact (h.with_input _).exec_call k
      | bytes bs =>
        obtain ⟨f, hf, hrow⟩ := decodeInput_bytes_ok hd
        exact (h.with_input _).exec_row hf hrow

/-- Settles O56: the pull with the buffer exhausted and a frame that fails to decode. -/
theorem decodeFailureGivesSilence : Obligations.DecodeFailureGivesSilence :=
  fun _ _ _ h hbuf hn hfail => produce_failure h hbuf hn hfail

end Sys2Proof.Machine
end

section
/-! SUPPORT. Device reset (O7, O26), and when a low data output may rise (O12). Under `SDA_RELEASE = literal` only a bit cell and
device reset write `SDA_OUT` (40_bus_protocol.md R160), and outside `data-read` a bit cell drives low (R151). -/

namespace Sys2Proof.Machine

open Sys2Proof.Config

/-! ### Device reset -/

/-- Device reset leaves a block that is in its reset state. -/
theorem deviceReset_resetWith (c : Params) : deviceReset (State.resetWith c) = State.resetWith c := rfl

/-- The reset state of an admissible block meets the invariant (10_state.md R60). -/
theorem inv_resetWith {c : Params} (hok : c.ok = true) : Inv (State.resetWith c) := by
  rw [← deviceReset_resetWith]
  exact inv_deviceReset (s := State.resetWith c) hok

theorem referenceProfile_ok : referenceProfile.ok = true := by decide

/-! ### A data output that is held low -/

/-- The data output is low, and nothing but device reset lets it rise: Nak and STOP do not release it, and a bit cell does not
drive the payload. -/
structure HeldLow (s : State) : Prop where
  literal : s.cfg.sdaRelease = .literal
  low : s.sdaOut = false
  not_read : s.subdest ≠ .dataRead

/-- Under `SDA_RELEASE = literal` completing a byte leaves the data output (40_bus_protocol.md R160). -/
theorem ByteFrame.sdaOut_literal {s t : State} (h : ByteFrame s t) (hl : s.cfg.sdaRelease = .literal) : t.sdaOut = s.sdaOut := by
  rcases h.sdaOut with hkept | hreleased
  · exact hkept
  · exact hreleased.trans (releasedSda_literal hl)

/-- Completing a byte does not raise the line. -/
theorem HeldLow.of_byteFrame {s t : State} (h : HeldLow s) (f : ByteFrame s t) : t.sdaOut = false :=
  (f.sdaOut_literal h.literal).trans h.low

/-- The one state an operation answers. -/
theorem sdaOut_low_of_next {t u : State} (h : (.next u : Result) = .next t) (hu : u.sdaOut = false) : t.sdaOut = false := by
  cases h
  exact hu

/-- The bit cells of a byte drive low (40_bus_protocol.md R151). -/
theorem HeldLow.clockIn {s : State} (h : HeldLow s) (b : Byte) : HeldLow (clockIn b s) :=
  ⟨h.literal, driveLevel_low h.not_read 0, h.not_read⟩

/-- An acknowledge leaves the data output (40_bus_protocol.md R154). -/
theorem HeldLow.acknowledge {s : State} (h : HeldLow s) : HeldLow (acknowledge s) := ⟨h.literal, h.low, h.not_read⟩

/-! ### The input events -/

/-- A bit cell drives low, and the eighth then completes its byte (40_bus_protocol.md R151, R152). -/
theorem HeldLow.bitCell {s t : State} (h : HeldLow s) (hx : bitCell s = .next t) : t.sdaOut = false := by
  cases hi : s.bitIdx with
  | none => rw [bitCell_none hi] at hx; cases hx
  | some i =>
    have hdriven : HeldLow (sampleBit i s) := ⟨h.literal, driveLevel_low h.not_read i.val, h.not_read⟩
    by_cases hlast : i.val = 0
    · obtain rfl : i = 0 := Fin.ext hlast
      rw [bitCell_last hi] at hx
      exact sdaOut_low_of_next hx (hdriven.of_byteFrame (byteComplete_frame _))
    · rw [bitCell_sample hi (Nat.pos_of_ne_zero hlast)] at hx
      exact sdaOut_low_of_next hx hdriven.low

/-- A clock call: a bit cell, or an edge that leaves the data output (40_bus_protocol.md R142). -/
theorem HeldLow.setClock {l : Bool} {s t : State} (h : HeldLow s) (hx : execSetClock l s = .next t) : t.sdaOut = false := by
  obtain hcell | ⟨bus, idx, acc, rfl⟩ := execSetClock_cases hx
  · exact HeldLow.bitCell (s := { s with sclIn := true }) ⟨h.literal, h.low, h.not_read⟩ hcell
  · exact h.low

/-- A data call: a level, a STOP that does not release the line, a START (40_bus_protocol.md R143, R160). -/
theorem HeldLow.setData {l : Bool} {s t : State} (h : HeldLow s) (hx : execSetData l s = .next t) : t.sdaOut = false := by
  obtain rfl | rfl | rfl := execSetData_cases hx
  · exact h.low
  · exact (releasedSda_literal (s := { s with sdaIn := true }) h.literal).trans h.low
  · exact h.low

/-- The pipeline leaves the data output (43_decode_pipeline.md R260). -/
theorem SameBusSide.sdaOut {s t : State} (h : SameBusSide s t) : t.sdaOut = s.sdaOut := by
  obtain ⟨-, -, -, hsda, -⟩ := h
  exact hsda

/-- Every input event of 00_scope.md R8 but device reset keeps the line low. -/
theorem HeldLow.exec_call {k : Call} {s t : State} (h : HeldLow s) (hk : k ≠ .reset) (hx : exec k.toInstr s = .next t) :
    t.sdaOut = false := by
  cases k with
  | setClock l => exact h.setClock hx
  | setData l => exact h.setData hx
  | readClock | readData => exact sdaOut_low_of_next hx h.low
  | feedByte b => exact sdaOut_low_of_next hx ((feedByte_sameBusSide _ b s).sdaOut.trans h.low)
  | produce n => exact sdaOut_low_of_next hx ((produce_frame _ n s).bus.sdaOut.trans h.low)
  | reset => exact absurd rfl hk

/-! ### The rows of wire bytes -/

/-- A byte of a command keeps the sub-destination, consumed or clocked past in `Nak` (40_bus_protocol.md R154, R159). -/
theorem commandWireByte_subdest {s : State} (hd : s.subdest = .dataWrite) (b : Byte) :
    (commandWireByte s b).subdest = .dataWrite := by
  by_cases hnak : s.busState = .nak
  · rw [commandWireByte_nak hnak]; exact hd
  · rw [commandWireByte, if_neg hnak]; exact dataWrite_subdest b hd

/-- A byte of a command drives low, or is clocked past in `Nak` (40_bus_protocol.md R151, R159). -/
theorem HeldLow.commandWireByte {s : State} (h : HeldLow s) (hd : s.subdest = .dataWrite) (b : Byte) :
    HeldLow (commandWireByte s b) := by
  refine ⟨(commandWireByte_stepFrame s b).cfg ▸ h.literal, ?_, by rw [commandWireByte_subdest hd]; decide⟩
  by_cases hnak : s.busState = .nak
  · rw [commandWireByte_nak hnak]; exact h.low
  · rw [Machine.commandWireByte, if_neg hnak]
    exact (h.clockIn b).acknowledge.of_byteFrame (dataWrite_frame b _)

/-- A command row, by induction on its bytes. -/
theorem HeldLow.commandWireBytes {s : State} (h : HeldLow s) (hd : s.subdest = .dataWrite) (bs : List Byte) :
    (commandWireBytes bs s).sdaOut = false := by
  induction bs generalizing s with
  | nil => exact h.low
  | cons b bs ih => exact ih (h.commandWireByte hd b) (commandWireByte_subdest hd b)

/-- A selection leaves the data output, also that of `data-read`: it counts from the next byte on (41_command_interpreter.md
R181). -/
theorem select_sdaOut (b : Byte) (s : State) : (select b s).sdaOut = s.sdaOut := by
  unfold select
  repeat' split
  all_goals rfl

/-- A row that begins where the session stands, by its format: a read group begins in `data-read` only (30_encoding.md R103). -/
theorem HeldLow.exec_row {i : Instr} {f : ByteFormat} {s t : State} (h : HeldLow s) (hs : byteFormat s = some f)
    (hf : i.format = some f) (hx : exec i s = .next t) : t.sdaOut = false := by
  obtain ⟨-, hstand⟩ := byteFormat_cases hs
  cases f with
  | address =>
    obtain ⟨b, -, hrow⟩ := exec_address hf s
    exact sdaOut_low_of_next (hrow.symm.trans hx) ((h.clockIn b).of_byteFrame (addressByte_frame b _))
  | selector =>
    obtain ⟨b, -, hrow⟩ := exec_selector hf s
    exact sdaOut_low_of_next (hrow.symm.trans hx) ((select_sdaOut b _).trans (h.clockIn b).low)
  | command =>
    obtain ⟨-, hd, -⟩ := hstand
    exact sdaOut_low_of_next ((exec_command hf s).symm.trans hx) (h.commandWireBytes hd _)
  | read =>
    obtain ⟨-, hd⟩ := hstand
    exact absurd hd h.not_read
  | control =>
    cases i with
    | controlByte b => exact sdaOut_low_of_next hx (h.clockIn b).low
    | _ => cases hf
  | bad =>
    cases i with
    | badByte b => exact sdaOut_low_of_next hx (h.clockIn b).low
    | _ => cases hf

/-- A step without a reset call keeps the line low: it waits, runs an input event or a row, or only rewrites the input. -/
theorem HeldLow.step {s t : State} (h : HeldLow s) (hreset : s.input.head? ≠ some (.call .reset)) (hx : step s = .next t) :
    t.sdaOut = false := by
  have hinput (input : List Input) : HeldLow { s with input := input } := ⟨h.literal, h.low, h.not_read⟩
  rcases step_cases hx with ⟨-, rfl⟩ | ⟨k, rest, hin, hcall⟩ | ⟨bs, rest, f, i, tail, -, hs, hd, hrow⟩ | ⟨bs, rest, inp, -, rfl⟩
  · exact h.low
  · have hk : k ≠ .reset := by
      rintro rfl
      exact hreset (by rw [hin]; rfl)
    exact (hinput rest).exec_call hk hcall
  · exact (hinput (requeue tail rest)).exec_row hs (decodeBytes_format hd) hrow
  · exact h.low

/-! ### The obligations -/

/-- Settles O12: outside `data-read` a low line is held low, and a step without a reset call keeps it so. -/
theorem lowDataLineRisesOnlyInDataReadOrReset : Obligations.LowDataLineRisesOnlyInDataReadOrReset := by
  intro s t hliteral hlow hx hhigh
  by_contra hneither
  obtain ⟨hread, hreset⟩ := not_or.mp hneither
  have hstays : t.sdaOut = false := HeldLow.step ⟨hliteral, hlow, hread⟩ hreset hx
  rw [hstays] at hhigh
  cases hhigh

/-- Settles O7: the reset state of any admissible block, and of the reference profile. -/
theorem resetMeetsTheInvariant : Obligations.ResetMeetsTheInvariant :=
  ⟨fun _ hok => inv_resetWith hok, inv_resetWith referenceProfile_ok⟩

/-- Settles O26: device reset is the reset state of the block's own parameters, with the model's own fields kept. -/
theorem resetClearsTheRecord : Obligations.ResetClearsTheRecord := by
  intro s
  have hreset : exec .reset s = .next (deviceReset s) := rfl
  rw [hreset, deviceReset, State.resetWith]

end Sys2Proof.Machine
end
